-- ==== Sys2Proof/Word.lean ====
section
/-! DEFINITION. The data widths of RBCMD (00_scope R3, section 6): a byte everywhere, nibbles in the header and in the
decoder's counters, 16 bits inside the handlers. All quantities are unsigned. -/

namespace Sys2Proof

/-- Four bits: a header field (30_encoding R61), a decoder counter (10_state R18, R19), a control word (30_encoding R73). -/
abbrev Nibble := BitVec 4

/-- The data unit of RBCMD (00_scope R3). -/
abbrev Byte := BitVec 8

/-- The 16-bit values `A`, `B`, `R`, `D` of DISP (00_scope R3). -/
abbrev Half := BitVec 16

end Sys2Proof
end

