-- ==== Sys2Proof/Config.lean ====
section
/-! DEFINITION. What one RBCMD fixes when it is elaborated (00_scope R1, R2, R4). -/

namespace Sys2Proof.Config

/-- The capacity `C` of this hardware (00_scope R1). The ring buffer's operations take any capacity as an argument;
the machine's State uses this one. -/
abbrev capacity : Nat := 200

/-- The width `W` of an index register for a capacity `c` (00_scope R2). -/
def indexWidth (c : Nat) : Nat := max 1 (Nat.clog 2 c)

/-- The width `SW` of a size for a capacity `c` (00_scope R2). -/
def sizeWidth (c : Nat) : Nat := Nat.clog 2 (c + 1)

/-- How many payload registers DEC has (00_scope R4). -/
abbrev payloadRegs : Nat := 15

end Sys2Proof.Config
end

