-- ==== Sys2Proof/Syntax.lean ====
section
/-! DEFINITION. The instructions of RBCMD, one constructor for each row of spec/opcode_table.json; the frames of the wire
with their operands (30_encoding R60 to R67); the assembler's lines (30_encoding R76). -/

namespace Sys2Proof

/-- The instruction set in both layers (00_scope section 1). The operands are the encoding's own free bits: the don't-care
inputs of a control word, the byte on `wr_data`, the length nibble of a header. -/
inductive Instr where
  /-- INIT, control word `1cwr` (R90). -/
  | init (clr wrEn rdEn : Bool)
  /-- RESET, control word `01wr` (R91). -/
  | reset (wrEn rdEn : Bool)
  /-- NOP, control word `0000` (R99). -/
  | nop
  /-- GET, control word `0001` (R97). -/
  | get
  /-- PUT of the byte on `wr_data`, control word `0010` (R96). -/
  | put (data : Byte)
  /-- PUT_GET, control word `0011` (R98). -/
  | putGet (data : Byte)
  /-- IS_EMPTY, a query driven all the time (R92). -/
  | isEmpty
  /-- IS_FULL, a query driven all the time (R93). -/
  | isFull
  /-- SIZE, a query driven all the time (R94). -/
  | size
  /-- PEEK, a query driven all the time (R95). -/
  | peek
  /-- Header `0000llll` (R146). -/
  | unknown0 (len : Nibble)
  /-- ECHO, header `0001llll` (R142). -/
  | echo (len : Nibble)
  /-- ADD, header `0010llll` (R143). -/
  | add (len : Nibble)
  /-- Header `0011llll` (R146). -/
  | unknown3 (len : Nibble)
  /-- DELAY, header `0100llll` (R144). -/
  | delay (len : Nibble)
  /-- Header `0101llll` (R146). -/
  | unknown5 (len : Nibble)
  /-- LOG, header `0110llll` (R145). -/
  | log (len : Nibble)
  /-- Header `0111llll` (R146). -/
  | unknown7 (len : Nibble)
  /-- Header `1000llll` (R146). -/
  | unknown8 (len : Nibble)
  /-- Header `1001llll` (R146). -/
  | unknown9 (len : Nibble)
  /-- Header `1010llll` (R146). -/
  | unknown10 (len : Nibble)
  /-- Header `1011llll` (R146). -/
  | unknown11 (len : Nibble)
  /-- Header `1100llll` (R146). -/
  | unknown12 (len : Nibble)
  /-- Header `1101llll` (R146). -/
  | unknown13 (len : Nibble)
  /-- Header `1110llll` (R146). -/
  | unknown14 (len : Nibble)
  /-- Header `1111llll` (R146). -/
  | unknown15 (len : Nibble)
  deriving DecidableEq, Repr

/-- The three formats of the opcode table (30_encoding R69, R74). -/
inductive Format where
  /-- A port operation selected by the control word. -/
  | ctl
  /-- A query, selected by no word. -/
  | status
  /-- A wire command, matched on the header byte. -/
  | hdr
  deriving DecidableEq, Repr

/-- What an instruction is read from: the control word with the byte on `wr_data` (30_encoding R73, R74), or a header
byte got from the ring buffer (30_encoding R61). -/
inductive Encoded where
  | ctl (word : Nibble) (data : Byte)
  | hdr (byte : Byte)
  deriving DecidableEq, Repr

/-- One command on the wire with its payload operands (30_encoding R60). The length nibble of ECHO, ADD, DELAY and UNKNOWN
headers is kept because every value of it encodes the command (R71); that of LOG is the number of its bytes. -/
inductive Frame where
  | echo (len : Nibble)
  | add (len : Nibble) (a b : Half)
  | delay (len : Nibble) (ms : Half) (echo : Byte)
  | log (text : List Byte)
  | unknown (typ len : Nibble)
  deriving DecidableEq, Repr

/-- The command packet of 41_frame_decoder R131: type code, declared length, the payload in arrival order. -/
structure Packet where
  typ : Nibble
  len : Nibble
  payload : List Byte
  deriving DecidableEq, Repr

/-- A line of the assembler notation (30_encoding R76). `logText` is `LOG "text"`, `logBytes` is `LOG b0 b1 ...`. -/
inductive Line where
  | echo
  | add (a b : Half)
  | delay (d : Half) (e : Byte)
  | logText (text : List Char)
  | logBytes (bytes : List Byte)
  | byte (v : Byte)
  | unknown (t : Nibble)
  deriving DecidableEq, Repr

end Sys2Proof
end

