-- ==== Sys2Proof/WellFormed.lean ====
section
/-! DEFINITION. Which terms of Syntax.lean stand for something the spec can write down. Every field of `Instr` has exactly
its encoding's width, so no instruction has an operand out of range; what can be ill-formed is a query taken for something
a word selects, a frame, a packet, an assembler line, and a capacity. -/

namespace Sys2Proof

/-- The type codes that are commands: Echo, Add, Delay, Log (30_encoding R62). -/
def knownType (t : Nibble) : Bool := t == 1 || t == 2 || t == 4 || t == 6

/-- The format of each row of the opcode table. -/
def Instr.format : Instr → Format
  | .init _ _ _ | .reset _ _ | .nop | .get | .put _ | .putGet _ => .ctl
  | .isEmpty | .isFull | .size | .peek => .status
  | .unknown0 _ | .echo _ | .add _ | .unknown3 _ | .delay _ | .unknown5 _ | .log _ | .unknown7 _ => .hdr
  | .unknown8 _ | .unknown9 _ | .unknown10 _ | .unknown11 _ | .unknown12 _ | .unknown13 _ => .hdr
  | .unknown14 _ | .unknown15 _ => .hdr

/-- Some word selects this instruction: all but the four queries, which no control word selects (30_encoding R74). -/
def Instr.selectable (i : Instr) : Bool := i.format != .status

/-- The frame can be put on the wire: a text fits the 4-bit length field (30_encoding R67, R76), an unknown frame has an
unassigned type code (R70). -/
def Frame.wf : Frame → Bool
  | .echo _ | .add _ _ _ | .delay _ _ _ => true
  | .log text => decide (text.length ≤ 15)
  | .unknown t _ => !knownType t

/-- The packet is one that DEC presents: a known type, and the payload as long as the type and length ask for
(30_encoding R63, 41_frame_decoder R127). -/
def Packet.wf (p : Packet) : Bool :=
  (p.typ == 1 && p.payload.length == 0) || (p.typ == 2 && p.payload.length == 4) ||
  (p.typ == 4 && p.payload.length == 3) || (p.typ == 6 && p.payload.length == p.len.toNat)

/-- The line can be assembled (30_encoding R76): a LOG has at most 15 bytes, a quoted text has ASCII characters only,
UNKNOWN takes an unassigned type code. -/
def Line.wf : Line → Bool
  | .echo | .add _ _ | .delay _ _ | .byte _ => true
  | .logText cs => decide (cs.length ≤ 15) && cs.all (fun c => decide (c.toNat < 128))
  | .logBytes bs => decide (bs.length ≤ 15)
  | .unknown t => !knownType t

/-- A capacity is a positive integer (00_scope R1). -/
def capacityWf (c : Nat) : Bool := decide (1 ≤ c)

end Sys2Proof
end

