-- ==== Sys2Proof/Decode.lean ====
section
/-! DEFINITION. Decoding: control words and header bytes to instructions, byte streams to frames and packets; the encoders,
written from the same tables; the assembler (30_encoding, 41_frame_decoder R121, R131). -/

namespace Sys2Proof

/-- `hdr[7:4]`, the type code (30_encoding R61). -/
def headerType (h : Byte) : Nibble := h.extractLsb' 4 4

/-- `hdr[3:0]`, the declared length (30_encoding R61). -/
def headerLen (h : Byte) : Nibble := h.extractLsb' 0 4

/-- The header byte of a type code and a length (30_encoding R61). -/
def header (t l : Nibble) : Byte := t ++ l

/-- The payload length function (30_encoding R63). -/
def plen (t l : Nibble) : Nibble :=
  if t = 2 then 4 else if t = 4 then 3 else if t = 6 then l else 0

/-- A header byte to its command: the type code map (30_encoding R62, R69), total on the 256 values. -/
def decodeHeader (h : Byte) : Instr :=
  let l := headerLen h
  match (headerType h).toNat with
  | 0 => .unknown0 l
  | 1 => .echo l
  | 2 => .add l
  | 3 => .unknown3 l
  | 4 => .delay l
  | 5 => .unknown5 l
  | 6 => .log l
  | 7 => .unknown7 l
  | 8 => .unknown8 l
  | 9 => .unknown9 l
  | 10 => .unknown10 l
  | 11 => .unknown11 l
  | 12 => .unknown12 l
  | 13 => .unknown13 l
  | 14 => .unknown14 l
  | _ => .unknown15 l

/-- The control word `{rst, clr, wr_en, rd_en}`, `rst` being bit 3 (30_encoding R73). -/
def ctlWord (rst clr wrEn rdEn : Bool) : Nibble :=
  BitVec.ofBool rst ++ BitVec.ofBool clr ++ BitVec.ofBool wrEn ++ BitVec.ofBool rdEn

/-- A control word, with the byte on `wr_data`, to its port operation (30_encoding R74), total on the 16 values. -/
def decodeCtl (w : Nibble) (data : Byte) : Instr :=
  if w.getLsbD 3 then .init (w.getLsbD 2) (w.getLsbD 1) (w.getLsbD 0)
  else if w.getLsbD 2 then .reset (w.getLsbD 1) (w.getLsbD 0)
  else if w.getLsbD 1 then (if w.getLsbD 0 then .putGet data else .put data)
  else if w.getLsbD 0 then .get else .nop

/-- Whatever an instruction is read from, to the instruction. Nothing is refused: both tables are total (30_encoding R69,
R74). -/
def decode : Encoded → Instr
  | .ctl w data => decodeCtl w data
  | .hdr h => decodeHeader h

/-- The word that selects an instruction; none for the four queries, which no word selects (30_encoding R74). -/
def encode : Instr → Option Encoded
  | .init c w r => some (.ctl (ctlWord true c w r) 0)
  | .reset w r => some (.ctl (ctlWord false true w r) 0)
  | .nop => some (.ctl 0b0000 0)
  | .get => some (.ctl 0b0001 0)
  | .put b => some (.ctl 0b0010 b)
  | .putGet b => some (.ctl 0b0011 b)
  | .isEmpty => none
  | .isFull => none
  | .size => none
  | .peek => none
  | .unknown0 l => some (.hdr (header 0 l))
  | .echo l => some (.hdr (header 1 l))
  | .add l => some (.hdr (header 2 l))
  | .unknown3 l => some (.hdr (header 3 l))
  | .delay l => some (.hdr (header 4 l))
  | .unknown5 l => some (.hdr (header 5 l))
  | .log l => some (.hdr (header 6 l))
  | .unknown7 l => some (.hdr (header 7 l))
  | .unknown8 l => some (.hdr (header 8 l))
  | .unknown9 l => some (.hdr (header 9 l))
  | .unknown10 l => some (.hdr (header 10 l))
  | .unknown11 l => some (.hdr (header 11 l))
  | .unknown12 l => some (.hdr (header 12 l))
  | .unknown13 l => some (.hdr (header 13 l))
  | .unknown14 l => some (.hdr (header 14 l))
  | .unknown15 l => some (.hdr (header 15 l))

/-- One row's `match` and `mask` (30_encoding R69, R74): a value belongs to the row when it agrees with `value` on the
bits of `mask`. -/
structure Row where
  value : Nat
  mask : Nat
  deriving DecidableEq, Repr

/-- The row of spec/opcode_table.json an instruction belongs to. -/
def Instr.row : Instr → Row
  | .init _ _ _ => ⟨0x8, 0x8⟩
  | .reset _ _ => ⟨0x4, 0xC⟩
  | .nop => ⟨0x0, 0xF⟩
  | .get => ⟨0x1, 0xF⟩
  | .put _ => ⟨0x2, 0xF⟩
  | .putGet _ => ⟨0x3, 0xF⟩
  | .isEmpty => ⟨0x0, 0x0⟩
  | .isFull => ⟨0x0, 0x0⟩
  | .size => ⟨0x0, 0x0⟩
  | .peek => ⟨0x0, 0x0⟩
  | .unknown0 _ => ⟨0x00, 0xF0⟩
  | .echo _ => ⟨0x10, 0xF0⟩
  | .add _ => ⟨0x20, 0xF0⟩
  | .unknown3 _ => ⟨0x30, 0xF0⟩
  | .delay _ => ⟨0x40, 0xF0⟩
  | .unknown5 _ => ⟨0x50, 0xF0⟩
  | .log _ => ⟨0x60, 0xF0⟩
  | .unknown7 _ => ⟨0x70, 0xF0⟩
  | .unknown8 _ => ⟨0x80, 0xF0⟩
  | .unknown9 _ => ⟨0x90, 0xF0⟩
  | .unknown10 _ => ⟨0xA0, 0xF0⟩
  | .unknown11 _ => ⟨0xB0, 0xF0⟩
  | .unknown12 _ => ⟨0xC0, 0xF0⟩
  | .unknown13 _ => ⟨0xD0, 0xF0⟩
  | .unknown14 _ => ⟨0xE0, 0xF0⟩
  | .unknown15 _ => ⟨0xF0, 0xF0⟩

/-- The bits that a row is matched on. -/
def Encoded.bits : Encoded → Nat
  | .ctl w _ => w.toNat
  | .hdr h => h.toNat

/-- `{x, y}` of two bytes, the first the high part (00_scope section 6, 20_memory R43). -/
def be16 (hi lo : Byte) : Half := hi ++ lo

/-- `v[15:8]`. -/
def highByte (v : Half) : Byte := v.extractLsb' 8 8

/-- `v[7:0]`. -/
def lowByte (v : Half) : Byte := v.extractLsb' 0 8

/-- Why a byte stream holds no whole frame at its front. -/
inductive NoFrame where
  /-- There is no byte: DEC holds in AH (41_frame_decoder R120). -/
  | noHeader
  /-- Payload bytes are missing: DEC holds in AP (41_frame_decoder R124). -/
  | truncated
  deriving DecidableEq, Repr

/-- The frame at the front of a byte stream and the bytes after it (30_encoding R60 to R67). -/
def decodeFrame : List Byte → Except NoFrame (Frame × List Byte)
  | [] => .error .noHeader
  | h :: rest =>
    let t := headerType h
    let l := headerLen h
    if t = 1 then .ok (.echo l, rest)
    else if t = 2 then
      match rest with
      | ah :: al :: bh :: bl :: rest' => .ok (.add l (be16 ah al) (be16 bh bl), rest')
      | _ => .error .truncated
    else if t = 4 then
      match rest with
      | dh :: dl :: e :: rest' => .ok (.delay l (be16 dh dl) e, rest')
      | _ => .error .truncated
    else if t = 6 then
      if rest.length < l.toNat then .error .truncated else .ok (.log (rest.take l.toNat), rest.drop l.toNat)
    else .ok (.unknown t l, rest)

/-- The bytes of a frame in arrival order (30_encoding R60, R64, R65, R67). -/
def encodeFrame : Frame → List Byte
  | .echo l => [header 1 l]
  | .add l a b => [header 2 l, highByte a, lowByte a, highByte b, lowByte b]
  | .delay l d e => [header 4 l, highByte d, lowByte d, e]
  | .log text => header 6 (BitVec.ofNat 4 text.length) :: text
  | .unknown t l => [header t l]

/-- `parse` of 41_frame_decoder R131 on at most `fuel` frames. -/
def parseAtMost : Nat → List Byte → List Packet
  | 0, _ => []
  | _, [] => []
  | fuel + 1, h :: rest =>
    let t := headerType h
    let l := headerLen h
    if knownType t then
      let n := (plen t l).toNat
      if rest.length < n then [] else ⟨t, l, rest.take n⟩ :: parseAtMost fuel (rest.drop n)
    else parseAtMost fuel rest

/-- The packets of a byte sequence (41_frame_decoder R131): every frame takes at least one byte, so its length is fuel
enough. -/
def parse (bytes : List Byte) : List Packet := parseAtMost bytes.length bytes

/-- Why the assembler refuses a line (30_encoding R76). -/
inductive AsmError where
  /-- A LOG of more than 15 bytes: the length field has 4 bits. -/
  | logTooLong
  /-- UNKNOWN with a type code that is a command. -/
  | assignedType
  /-- A quoted text with a character that is not ASCII. -/
  | notAscii
  deriving DecidableEq, Repr

/-- A LOG line's bytes, at most 15 (30_encoding R76). -/
def assembleLog (bs : List Byte) : Except AsmError (List Byte) :=
  if bs.length ≤ 15 then .ok (encodeFrame (.log bs)) else .error .logTooLong

/-- The assembler of 30_encoding R76. PRESUMED (log 15): a quoted text is its ASCII bytes. -/
def assemble : Line → Except AsmError (List Byte)
  | .echo => .ok [0x10]
  | .add a b => .ok (encodeFrame (.add 4 a b))
  | .delay d e => .ok (encodeFrame (.delay 3 d e))
  | .logText cs =>
    if cs.all (fun c => decide (c.toNat < 128)) then assembleLog (cs.map fun c => BitVec.ofNat 8 c.toNat)
    else .error .notAscii
  | .logBytes bs => assembleLog bs
  | .byte v => .ok [v]
  | .unknown t => if knownType t then .error .assignedType else .ok [header t 0]

/-- DESIGN CHOICE (log 4): the opcode table numbers two layers, a 4-bit control word and an 8-bit header, in one space of
words. A word below 16 is read as a control word (with 0 on `wr_data`), a larger one as a header byte. A query has no
word. -/
def tableEncoded (nbits w : Nat) : Option Encoded :=
  if nbits = 0 then none
  else if w < 16 then some (.ctl (BitVec.ofNat 4 w) 0)
  else if w < 256 then some (.hdr (BitVec.ofNat 8 w))
  else none

/-- What the decoder reads from a word of the opcode table. -/
def decodeTableWord (nbits w : Nat) : Option Instr := (tableEncoded nbits w).map decode

end Sys2Proof
end

