-- ==== Sys2Proof/Machine/State.lean ====
section
/-! DEFINITION. The state of RBCMD (10_state R10 to R21) as plain data, its ports (R26, R28), the events it is observed by
(00_scope R6), the ways a step can stop, and the state after reset (R30). -/

namespace Sys2Proof.Machine

/-- Why the machine stops with an error: never. RBCMD raises no exception, takes no trap and has no fault state
(60_exceptions R180), so this type has no constructor. -/
inductive Fault where
  deriving DecidableEq, Repr

/-- Why the model has no next state. All are safe: no run from reset meets one. -/
inductive Refusal where
  /-- Raised by an arm of `exec` whose instruction has no meaning yet. Safe. -/
  | notModelled (mnemonic : String)
  /-- Raised by an UNKNOWN command while `ds = EX`: Execute with a type code outside 1, 2, 4, 6, which 93 U6 and
  41_frame_decoder R130 ask a model to refuse. Unreachable; safe. -/
  | executeOfUnknownType
  /-- Raised by any wire command when a byte is got while `ds = AP` and `idx` is not below `need`: `need = 0` or
  `idx > need` of 93 U6, or `idx = need`, which R19 excludes. Unreachable; safe. -/
  | payloadBeyondNeed
  deriving DecidableEq, Repr

/-- The storage `buf` (10_state R10) as its slots that do not hold 0x00, in the canonical form of `Memory.wf`. -/
abbrev Memory := List Host.Cell

/-- The ring buffer RB of capacity `c` (10_state R10 to R13). An index is a number below `c`, so that I1 and I2 of R14
cannot be broken (00_scope R2). -/
structure Rb (c : Nat) where
  /-- R10: the storage. -/
  buf : Memory
  /-- R11: the next write slot. -/
  head : Fin c
  /-- R12: the next read slot. -/
  tail : Fin c
  /-- R13: tells a full queue from an empty one when `head = tail`. -/
  full : Bool
  deriving DecidableEq, Repr

/-- The four values of the decoder state register `ds` (10_state R17). -/
inductive DecState where
  /-- AwaitHeader. -/
  | ah
  /-- AwaitPayload. -/
  | ap
  /-- Execute. -/
  | ex
  /-- The wait inside Execute of a Delay. -/
  | dw
  deriving DecidableEq, Repr

/-- The 2-bit code of a decoder state (10_state R17); it is on no port. -/
def DecState.code : DecState → BitVec 2
  | .ah => 0
  | .ap => 1
  | .ex => 2
  | .dw => 3

/-- The decoder DEC (10_state R17 to R20). -/
structure Dec where
  /-- R17: the decoder state register. -/
  ds : DecState
  /-- R18: the type code of the command in progress. -/
  typ : Nibble
  /-- R18: the declared length of the command in progress. -/
  len : Nibble
  /-- R19: how many payload bytes it has. -/
  need : Nibble
  /-- R19: how many of them were received. -/
  idx : Nibble
  /-- R20: the payload registers `pl[0]` to `pl[14]`. -/
  pl : Vector Byte Config.payloadRegs
  deriving DecidableEq, Repr

/-- DEC at reset and between commands (10_state R21, R30). -/
def Dec.cleared : Dec :=
  { ds := .ah, typ := 0, len := 0, need := 0, idx := 0, pl := Vector.replicate Config.payloadRegs 0 }

/-- The input ports as sampled at one edge (10_state R26). -/
structure Inputs where
  rst : Bool
  clr : Bool
  wrEn : Bool
  wrData : Byte
  sleepDone : Bool
  deriving DecidableEq, Repr

/-- All inputs 0 (95_test_vectors section 5). -/
def Inputs.idle : Inputs := { rst := false, clr := false, wrEn := false, wrData := 0, sleepDone := false }

/-- An output event (00_scope R6). -/
inductive Event where
  | send (bytes : List Byte)
  | log (bytes : List Byte)
  | sleepReq (ms : Half)
  deriving DecidableEq, Repr

/-- The output ports that carry events (10_state R28, 30_encoding R75). -/
structure Strobes where
  sendValid : Bool
  sendLen : BitVec 2
  sendB0 : Byte
  sendB1 : Byte
  sendB2 : Byte
  logValid : Bool
  logLen : Nibble
  logB : Vector Byte Config.payloadRegs
  sleepReq : Bool
  sleepMs : Half
  deriving DecidableEq, Repr

/-- No strobe raised, every data port 0 (43_top_cycle R165). -/
def Strobes.none : Strobes :=
  { sendValid := false, sendLen := 0, sendB0 := 0, sendB1 := 0, sendB2 := 0
    logValid := false, logLen := 0, logB := Vector.replicate Config.payloadRegs 0
    sleepReq := false, sleepMs := 0 }

/-- The output ports (10_state R28). `rdData` is none where the spec gives `rd_data` no value (R95). -/
structure Ports where
  empty : Bool
  full : Bool
  size : Nat
  rdData : Option Byte
  strobes : Strobes
  deriving DecidableEq, Repr

/-- The output ports in the reset state (10_state R30). -/
def Ports.reset : Ports := { empty := true, full := false, size := 0, rdData := none, strobes := .none }

/-- The whole state of RBCMD of capacity `c` (10_state R31: rules R10 to R21 and nothing else). -/
structure Block (c : Nat) where
  /-- The ring buffer (R10 to R16). -/
  rb : Rb c
  /-- The frame decoder (R17 to R21). -/
  dec : Dec
  deriving DecidableEq, Repr

/-- What the host steps: a machine of capacity `c`, which is the model's argument with the hardware's 200 as its default
(00_scope R1), and the record of its environment. The machine is the part `Block c`; the other fields are outputs and inputs
and no state of RBCMD (R31). They stand here because the host's step takes a state alone and answers a state alone (log 1,
log 2); `blockStep` is the step without them. -/
structure State (c : Nat := Config.capacity) extends Block c where
  /-- DESIGN CHOICE (log 2): the byte that the GET of the last edge returned (`b` of 43_top_cycle R162), none if none
  fired. -/
  got : Option Byte
  /-- DESIGN CHOICE (log 2): what the output ports showed in the cycle that the last edge ended. -/
  out : Ports
  /-- DESIGN CHOICE (log 2): the event trace (00_scope R6), oldest event first. -/
  trace : List Event
  /-- DESIGN CHOICE (log 1): the inputs of the coming edges, the next edge's first. -/
  env : List Inputs
  deriving DecidableEq, Repr

/-- How a step of a machine of capacity `c` ends. -/
abbrev Result (c : Nat) := Host.Outcome (State c) Fault Refusal

/-- The machine's state after `rst` (10_state R30) for a capacity that is positive: a capacity of 0 is refused (R1). -/
def Block.reset (c : Nat) (hc : 0 < c) : Block c :=
  { rb := { buf := [], head := ⟨0, hc⟩, tail := ⟨0, hc⟩, full := false }, dec := .cleared }

/-- The state after `rst` for any capacity, nothing observed yet and no input to come (log 3). -/
def State.resetAt (c : Nat) (hc : 0 < c) : State c :=
  { toBlock := Block.reset c hc, got := none, out := .reset, trace := [], env := [] }

/-- The state after `rst` of this hardware (10_state R30). -/
def State.reset : State := .resetAt Config.capacity (by decide)

end Sys2Proof.Machine
end

