-- ==== Sys2Proof/Machine/Flags.lean ====
section
/-! DEFINITION. The flags of RB and the values computed from `head`, `tail` and `full` (10_state R23, 40_ringbuffer_ops R92
to R95, R104). RBCMD has no arithmetic condition code. -/

namespace Sys2Proof.Machine

/-- `(x + 1) mod C` (40_ringbuffer_ops R104). -/
def nextIdx {c : Nat} (x : Fin c) : Fin c := ⟨(x.val + 1) % c, Nat.mod_lt _ x.pos⟩

/-- `full` after a PUT left these indices (40_ringbuffer_ops R96). -/
def fullAfterPut {c : Nat} (head tail : Fin c) : Bool := head == tail

/-- `empty` (40_ringbuffer_ops R92). -/
def Rb.isEmpty {c : Nat} (r : Rb c) : Bool := !r.full && r.head == r.tail

/-- `is_full` (40_ringbuffer_ops R93). -/
def Rb.isFull {c : Nat} (r : Rb c) : Bool := r.full

/-- The number of unread bytes (40_ringbuffer_ops R94). -/
def Rb.size {c : Nat} (r : Rb c) : Nat :=
  if r.full then c
  else if r.tail.val ≤ r.head.val then r.head.val - r.tail.val
  else c + r.head.val - r.tail.val

end Sys2Proof.Machine
end

