-- ==== Sys2Proof/Machine/Operands.lean ====
section
/-! DEFINITION. The operands the handlers read from the payload registers (30_encoding R64 to R67), and the packet that DEC
presents to DISP with its routing (10_state R24, 42_command_dispatch R140). -/

namespace Sys2Proof.Machine

/-- Payload register `pl[i]`. -/
def Dec.payload (d : Dec) (i : Fin Config.payloadRegs) : Byte := d.pl[i]

/-- `A` of an ADD (30_encoding R66). -/
def Dec.operandA (d : Dec) : Half := be16 (d.payload 0) (d.payload 1)

/-- `B` of an ADD (30_encoding R66). -/
def Dec.operandB (d : Dec) : Half := be16 (d.payload 2) (d.payload 3)

/-- `D` of a DELAY, in milliseconds (30_encoding R66). -/
def Dec.operandD (d : Dec) : Half := be16 (d.payload 0) (d.payload 1)

/-- `Echo` of a DELAY (30_encoding R66). -/
def Dec.operandEcho (d : Dec) : Byte := d.payload 2

/-- The text of a LOG: `pl[0]` to `pl[len-1]` (30_encoding R67). -/
def Dec.text (d : Dec) : List Byte := d.pl.toList.take d.len.toNat

/-- The command packet of fixed fields (10_state R24); it is internal to RBCMD. -/
structure CmdPacket where
  valid : Bool
  typ : Nibble
  len : Nibble
  pl : Vector Byte Config.payloadRegs
  deriving DecidableEq, Repr

/-- What DEC presents to DISP (10_state R24). -/
def Dec.packet (d : Dec) : CmdPacket := { valid := d.ds == .ex, typ := d.typ, len := d.len, pl := d.pl }

/-- The packet in the form of 41_frame_decoder R131: the payload bytes alone. -/
def Dec.payloadPacket (d : Dec) : Packet := ⟨d.typ, d.len, d.pl.toList.take d.need.toNat⟩

/-- `sel_echo` (42_command_dispatch R140). -/
def CmdPacket.selEcho (p : CmdPacket) : Bool := p.valid && p.typ == 1

/-- `sel_add` (42_command_dispatch R140). -/
def CmdPacket.selAdd (p : CmdPacket) : Bool := p.valid && p.typ == 2

/-- `sel_delay` (42_command_dispatch R140). -/
def CmdPacket.selDelay (p : CmdPacket) : Bool := p.valid && p.typ == 4

/-- `sel_log` (42_command_dispatch R140). -/
def CmdPacket.selLog (p : CmdPacket) : Bool := p.valid && p.typ == 6

end Sys2Proof.Machine
end

