-- ==== Sys2Proof/Machine/Ops.lean ====
section
/-! DEFINITION. The named operations: storage, the ring buffer's (40_ringbuffer_ops), the decoder's (41_frame_decoder), the
events and their ports (30_encoding R75), and the one consumer step that every wire command is made of. There is no
operation for taking an exception and none for returning from one: RBCMD has neither (60_exceptions R180, R188). -/

namespace Sys2Proof.Machine

/-! ### Storage -/

/-- What a slot that is not listed reads as: 0x00, the value of every slot after reset (10_state R30, log 12). -/
abbrev Memory.unlisted : Byte := 0

/-- `MemRead(i, 1)` (00_scope section 6). -/
def Memory.read : Memory → Nat → Byte
  | [], _ => Memory.unlisted
  | (a, v) :: m, i => if a = i then v else Memory.read m i

/-- `MemWrite(i, 1, b)` (00_scope section 6), keeping the form of `Memory.wf`. -/
def Memory.write : Memory → Nat → Byte → Memory
  | [], i, b => if b = Memory.unlisted then [] else [(i, b)]
  | (a, v) :: m, i, b =>
    if i < a then (if b = Memory.unlisted then (a, v) :: m else (i, b) :: (a, v) :: m)
    else if i = a then (if b = Memory.unlisted then m else (i, b) :: m)
    else (a, v) :: Memory.write m i b

/-- The canonical form: slots below the capacity, in rising order, none that reads as an unlisted one. -/
def Memory.wf (c : Nat) : Memory → Bool
  | [] => true
  | (a, v) :: m =>
    decide (a < c) && v != Memory.unlisted && m.all (fun cell => decide (a < cell.1)) && Memory.wf c m

/-! ### Ring buffer -/

/-- INIT of RB (40_ringbuffer_ops R90). -/
def Rb.init {c : Nat} (r : Rb c) : Rb c :=
  { buf := [], head := ⟨0, r.head.pos⟩, tail := ⟨0, r.head.pos⟩, full := false }

/-- RESET (40_ringbuffer_ops R91): the storage is not written. -/
def Rb.clear {c : Nat} (r : Rb c) : Rb c :=
  { r with head := ⟨0, r.head.pos⟩, tail := ⟨0, r.head.pos⟩, full := false }

/-- PEEK (40_ringbuffer_ops R95): no value when the queue is empty. -/
def Rb.peek {c : Nat} (r : Rb c) : Option Byte := if r.isEmpty then none else some (r.buf.read r.tail)

/-- PUT (40_ringbuffer_ops R96): on a full queue the oldest unread byte is dropped. -/
def Rb.put {c : Nat} (r : Rb c) (b : Byte) : Rb c :=
  let tail := if r.full then nextIdx r.tail else r.tail
  let head := nextIdx r.head
  { buf := r.buf.write r.head b, head := head, tail := tail, full := fullAfterPut head tail }

/-- The state a GET that fires leaves (40_ringbuffer_ops R97): the storage is not written. -/
def Rb.advance {c : Nat} (r : Rb c) : Rb c := { r with tail := nextIdx r.tail, full := false }

/-- GET (40_ringbuffer_ops R97): the byte returned, none if it does not fire, and the state after. -/
def Rb.get {c : Nat} (r : Rb c) : Option Byte × Rb c :=
  match r.peek with
  | none => (none, r)
  | some b => (some b, r.advance)

/-- PUT_GET (40_ringbuffer_ops R98): GET first, then PUT on what the GET left. -/
def Rb.putGet {c : Nat} (r : Rb c) (b : Byte) : Option Byte × Rb c := (r.get.1, r.get.2.put b)

/-! ### Events and ports -/

variable {c : Nat}

/-- How an event appears on the ports (30_encoding R75). -/
def Event.strobes : Event → Strobes
  | .send bs =>
    { Strobes.none with
      sendValid := true, sendLen := BitVec.ofNat 2 bs.length
      sendB0 := bs.getD 0 0, sendB1 := bs.getD 1 0, sendB2 := bs.getD 2 0 }
  | .log bs =>
    { Strobes.none with
      logValid := true, logLen := BitVec.ofNat 4 bs.length, logB := Vector.ofFn fun i => bs.getD i 0 }
  | .sleepReq ms => { Strobes.none with sleepReq := true, sleepMs := ms }

/-- Replace the ring buffer and record what the GET of this edge returned. -/
def State.setRb (s : State c) (r : Rb c) (got : Option Byte) : State c := { s with rb := r, got := got }

/-- Replace the decoder's registers. -/
def State.setDec (s : State c) (d : Dec) : State c := { s with dec := d }

/-- Replace what the output ports show. -/
def State.setOut (s : State c) (p : Ports) : State c := { s with out := p }

/-- `emit e` (00_scope section 6): on the ports and at the end of the trace. -/
def State.emit (s : State c) (e : Event) : State c :=
  { s with trace := s.trace ++ [e], out := { s.out with strobes := e.strobes } }

/-- `return_to_AH` (41_frame_decoder R128): every register of DEC to its reset value. -/
def State.returnToAh (s : State c) : State c := s.setDec .cleared

/-! ### Inputs -/

/-- The inputs sampled at the coming edge; idle when the list has ended (log 1). -/
def State.input (s : State c) : Inputs := s.env.headD .idle

/-! ### The consumer step (41_frame_decoder R120 to R129) -/

/-- Dispatch on a header of a known type `t` (41_frame_decoder R122): `need = plen(t, l)`, and EX follows when it is 0
(R123). The payload registers are not written. -/
def Dec.dispatch (d : Dec) (t l : Nibble) : Dec :=
  { d with typ := t, len := l, need := plen t l, idx := 0, ds := if plen t l = 0 then .ex else .ap }

/-- A payload byte arrives (41_frame_decoder R124). -/
def Dec.collect (d : Dec) (b : Byte) : Dec :=
  { d with pl := d.pl.setIfInBounds d.idx.toNat b, idx := d.idx + 1, ds := if d.idx + 1 = d.need then .ex else d.ds }

/-- The consumer step in AP: hold while nothing was got, else take the byte (41_frame_decoder R124). -/
def collectStep (s : State c) : Result c :=
  match s.got with
  | none => .next s
  | some b => if s.dec.idx < s.dec.need then .next (s.setDec (s.dec.collect b)) else .refused .payloadBeyondNeed

/-- The consumer step in DW (42_command_dispatch R144, 43_top_cycle R166): hold until `sleep_done`, then answer. R168 puts
no condition on `typ` here (log 13). -/
def delayWaitStep (s : State c) : Result c :=
  .next (if s.input.sleepDone then (s.emit (.send [0x51, s.dec.operandEcho])).returnToAh else s)

/-- One consumer step of a known command with header fields `t` and `l` and the handler that DISP selects for it: dispatch,
payload, Execute or Delay wait, by `ds` (43_top_cycle R168, log 6). -/
def commandStep (t l : Nibble) (handler : State c → State c) (s : State c) : Result c :=
  match s.dec.ds with
  | .ah => .next (s.setDec (s.dec.dispatch t l))
  | .ap => collectStep s
  | .ex => .next (handler s)
  | .dw => delayWaitStep s

/-- One consumer step of an unassigned command (42_command_dispatch R146): its header changes nothing. It is never latched,
so the other decoder states are not reached with it (log 8). -/
def unknownStep (s : State c) : Result c :=
  match s.dec.ds with
  | .ah => .next s
  | .ap => collectStep s
  | .ex => .refused .executeOfUnknownType
  | .dw => delayWaitStep s

/-! ### Sequencing -/

/-- Do `f` on the state that `o` answers; a stop stays a stop. -/
def andThen (o : Result c) (f : State c → Result c) : Result c :=
  match o with
  | .next s => f s
  | .fault r => .fault r
  | .refused r => .refused r

/-- The start of a cycle: no strobe is raised unless an event is emitted in it (43_top_cycle R165). -/
def State.beginCycle (s : State c) : State c := s.setOut { s.out with strobes := .none }

/-- The end of a cycle: its inputs are past. -/
def State.endCycle (s : State c) : State c := { s with env := s.env.tail }

end Sys2Proof.Machine
end

