-- ==== Sys2Proof/Machine/Commands.lean ====
section
/-! DEFINITION. The meanings of the four wire commands (42_command_dispatch R142 to R145): the handler that DISP runs in the
Execute step, and the command's consumer step around it. -/

namespace Sys2Proof.Machine

variable {c : Nat}

/-- The Echo handler (R142): a fixed byte, whatever the header was. -/
def echoHandler (s : State c) : State c := (s.emit (.send [0x10])).returnToAh

/-- The Add handler (R143): unsigned 16-bit addition, the carry out of bit 15 discarded. No diagnostic log (R148). -/
def addHandler (s : State c) : State c :=
  let r := s.dec.operandA + s.dec.operandB
  (s.emit (.send [0x32, highByte r, lowByte r])).returnToAh

/-- The Delay handler's Execute step (R144): the sleep request; the answer comes at the end of the wait. -/
def delayHandler (s : State c) : State c :=
  (s.emit (.sleepReq s.dec.operandD)).setDec { s.dec with ds := .dw }

/-- The Log handler (R145): the payload bytes as they came; no response. -/
def logHandler (s : State c) : State c := (s.emit (.log s.dec.text)).returnToAh

/-- ECHO (R142). -/
def execEcho (len : Nibble) (s : State c) : Result c := commandStep 1 len echoHandler s

/-- ADD (R143). -/
def execAdd (len : Nibble) (s : State c) : Result c := commandStep 2 len addHandler s

/-- DELAY (R144). -/
def execDelay (len : Nibble) (s : State c) : Result c := commandStep 4 len delayHandler s

/-- LOG (R145). -/
def execLog (len : Nibble) (s : State c) : Result c := commandStep 6 len logHandler s

end Sys2Proof.Machine
end

