-- ==== Sys2Proof/Machine/Queries.lean ====
section
/-! DEFINITION. The meanings of the four queries (40_ringbuffer_ops R92 to R95): each puts its result on its port and
changes nothing else (log 20). -/

namespace Sys2Proof.Machine

variable {c : Nat}

/-- IS_EMPTY on port `empty` (R92). -/
def execIsEmpty (s : State c) : Result c := .next (s.setOut { s.out with empty := s.rb.isEmpty })

/-- IS_FULL on port `full` (R93). -/
def execIsFull (s : State c) : Result c := .next (s.setOut { s.out with full := s.rb.isFull })

/-- SIZE on port `size` (R94). -/
def execSize (s : State c) : Result c := .next (s.setOut { s.out with size := s.rb.size })

/-- PEEK on port `rd_data` (R95). -/
def execPeek (s : State c) : Result c := .next (s.setOut { s.out with rdData := s.rb.peek })

end Sys2Proof.Machine
end

