-- ==== Sys2Proof/Machine/RingOps.lean ====
section
/-! DEFINITION. The meanings of the port operations, one clock edge of RB each (40_ringbuffer_ops R90 to R99). None touches
DEC but INIT, which is the reset of the whole block (70_reset_and_hazards R210, R214). -/

namespace Sys2Proof.Machine

variable {c : Nat}

/-- INIT (R90, R210); `clr`, `wr_en` and `rd_en` are ignored. -/
def execInit (_clr _wrEn _rdEn : Bool) (s : State c) : Result c :=
  .next ((s.setRb s.rb.init none).setDec .cleared)

/-- RESET (R91): a simultaneous put is discarded and a simultaneous get does not fire. -/
def execReset (_wrEn _rdEn : Bool) (s : State c) : Result c :=
  .next (s.setRb s.rb.clear none)

/-- NOP (R99). -/
def execNop (s : State c) : Result c := .next (s.setRb s.rb none)

/-- GET (R97). -/
def execGet (s : State c) : Result c := .next (s.setRb s.rb.get.2 s.rb.get.1)

/-- PUT (R96). -/
def execPut (data : Byte) (s : State c) : Result c := .next (s.setRb (s.rb.put data) none)

/-- PUT_GET (R98). -/
def execPutGet (data : Byte) (s : State c) : Result c :=
  .next (s.setRb (s.rb.putGet data).2 (s.rb.putGet data).1)

end Sys2Proof.Machine
end

