-- ==== Sys2Proof/Machine/Unknown.lean ====
section
/-! DEFINITION. The meanings of the twelve unassigned type codes (42_command_dispatch R146, 41_frame_decoder R126): the
header byte is consumed alone, nothing is written and nothing is emitted. -/

namespace Sys2Proof.Machine

variable {c : Nat}

/-- UNKNOWN_0 (R146). -/
def execUnknown0 (_len : Nibble) (s : State c) : Result c := unknownStep s

/-- UNKNOWN_3 (R146). -/
def execUnknown3 (_len : Nibble) (s : State c) : Result c := unknownStep s

/-- UNKNOWN_5 (R146). -/
def execUnknown5 (_len : Nibble) (s : State c) : Result c := unknownStep s

/-- UNKNOWN_7 (R146). -/
def execUnknown7 (_len : Nibble) (s : State c) : Result c := unknownStep s

/-- UNKNOWN_8 (R146). -/
def execUnknown8 (_len : Nibble) (s : State c) : Result c := unknownStep s

/-- UNKNOWN_9 (R146). -/
def execUnknown9 (_len : Nibble) (s : State c) : Result c := unknownStep s

/-- UNKNOWN_10 (R146). -/
def execUnknown10 (_len : Nibble) (s : State c) : Result c := unknownStep s

/-- UNKNOWN_11 (R146). -/
def execUnknown11 (_len : Nibble) (s : State c) : Result c := unknownStep s

/-- UNKNOWN_12 (R146). -/
def execUnknown12 (_len : Nibble) (s : State c) : Result c := unknownStep s

/-- UNKNOWN_13 (R146). -/
def execUnknown13 (_len : Nibble) (s : State c) : Result c := unknownStep s

/-- UNKNOWN_14 (R146). -/
def execUnknown14 (_len : Nibble) (s : State c) : Result c := unknownStep s

/-- UNKNOWN_15 (R146). -/
def execUnknown15 (_len : Nibble) (s : State c) : Result c := unknownStep s

end Sys2Proof.Machine
end

