-- ==== Sys2Proof/Machine/Dispatch.lean ====
section
/-! DEFINITION. One arm per constructor of Instr, each one call of its meaning. -/

namespace Sys2Proof.Machine

def exec (i : Instr) (s : State) : Host.Outcome State Fault Refusal :=
  match i with
  | .init clr wrEn rdEn => Sys2Proof.Machine.execInit clr wrEn rdEn s
  | .reset wrEn rdEn => Sys2Proof.Machine.execReset wrEn rdEn s
  | .nop => Sys2Proof.Machine.execNop s
  | .get => Sys2Proof.Machine.execGet s
  | .put data => Sys2Proof.Machine.execPut data s
  | .putGet data => Sys2Proof.Machine.execPutGet data s
  | .isEmpty => Sys2Proof.Machine.execIsEmpty s
  | .isFull => Sys2Proof.Machine.execIsFull s
  | .size => Sys2Proof.Machine.execSize s
  | .peek => Sys2Proof.Machine.execPeek s
  | .unknown0 len => Sys2Proof.Machine.execUnknown0 len s
  | .echo len => Sys2Proof.Machine.execEcho len s
  | .add len => Sys2Proof.Machine.execAdd len s
  | .unknown3 len => Sys2Proof.Machine.execUnknown3 len s
  | .delay len => Sys2Proof.Machine.execDelay len s
  | .unknown5 len => Sys2Proof.Machine.execUnknown5 len s
  | .log len => Sys2Proof.Machine.execLog len s
  | .unknown7 len => Sys2Proof.Machine.execUnknown7 len s
  | .unknown8 len => Sys2Proof.Machine.execUnknown8 len s
  | .unknown9 len => Sys2Proof.Machine.execUnknown9 len s
  | .unknown10 len => Sys2Proof.Machine.execUnknown10 len s
  | .unknown11 len => Sys2Proof.Machine.execUnknown11 len s
  | .unknown12 len => Sys2Proof.Machine.execUnknown12 len s
  | .unknown13 len => Sys2Proof.Machine.execUnknown13 len s
  | .unknown14 len => Sys2Proof.Machine.execUnknown14 len s
  | .unknown15 len => Sys2Proof.Machine.execUnknown15 len s

end Sys2Proof.Machine
end

