-- ==== Sys2Proof/Machine/Fetch.lean ====
section
/-! DEFINITION. Which instructions an edge runs: the control word made of the inputs and of DEC's read enable (43_top_cycle
R161 to R163), and the wire command that the consumer is at (41_frame_decoder R120 to R129); and how an instruction of the
opcode table is put where the next edge runs it. -/

namespace Sys2Proof.Machine

/-- `rd_en`: DEC asks for a byte in AH and AP and in no other state (43_top_cycle R161). -/
def Dec.rdEn (d : Dec) : Bool := d.ds == .ah || d.ds == .ap

/-- The GET fires (43_top_cycle R162). -/
def fire {c : Nat} (inp : Inputs) (rdEn : Bool) (r : Rb c) : Bool := rdEn && !r.isEmpty && !inp.rst && !inp.clr

/-- The port operation of an edge with these inputs (30_encoding R73, R74). -/
def ctlInstr (inp : Inputs) (rdEn : Bool) : Instr := decodeCtl (ctlWord inp.rst inp.clr inp.wrEn rdEn) inp.wrData

variable {c : Nat}

/-- The wire command of the consumer step, after RB's part of the edge: in AH the command of the header just got, none
while nothing was got; in the other states the command in progress, whose header was `typ`, `len` (10_state R18, log 19).
An edge with `rst` has no consumer step (43_top_cycle R163, R167). -/
def consumerInstr (s : State c) : Option Instr :=
  if s.input.rst then none
  else match s.dec.ds with
    | .ah => s.got.map decodeHeader
    | .ap | .ex | .dw => some (decodeHeader (header s.dec.typ s.dec.len))

/-- DEC waiting for the timer of a Delay: a state in which it asks RB for nothing (10_state R17, 43_top_cycle R161). -/
def Dec.waiting : Dec := { Dec.cleared with ds := .dw, typ := 4, len := 3, need := 3, idx := 3 }

/-- DEC with the read enable that a control word has in bit 0: as it is where it drives that already, else at a state that
drives it (log 5). -/
def Dec.withRdEn (d : Dec) (rdEn : Bool) : Dec :=
  if d.rdEn == rdEn then d else if rdEn then .cleared else .waiting

/-- The coming edge samples the inputs of this control word (log 5). -/
def State.withCtl (s : State c) (w : Nibble) (data : Byte) : State c :=
  { s with
    dec := s.dec.withRdEn (w.getLsbD 0)
    env :=
      { rst := w.getLsbD 3, clr := w.getLsbD 2, wrEn := w.getLsbD 1, wrData := data, sleepDone := false } :: s.env }

/-- The header byte `h` is the oldest unread byte, with the frame's payload bytes, all 0, after it and nothing else in the
queue; DEC awaits a header; the coming edge is idle (log 5). -/
def State.withHeader (s : State c) (h : Byte) : State c :=
  { s with
    rb := (h :: List.replicate (plen (headerType h) (headerLen h)).toNat 0).foldl Rb.put s.rb.clear
    dec := .cleared
    env := .idle :: s.env }

/-- The instruction of `e` placed so that the coming edge runs it. -/
def State.withEncoded (s : State c) : Encoded → State c
  | .ctl w data => s.withCtl w data
  | .hdr h => s.withHeader h

end Sys2Proof.Machine
end

