-- ==== Sys2Proof/Machine/Edge.lean ====
section
/-! DEFINITION. One rising clock edge as instructions (43_top_cycle R160 to R168), for any capacity; the order of its parts is
log 7. The meaning of an instruction is the argument `run`, so that an edge reaches the ring buffer and the decoder through
instructions alone. -/

namespace Sys2Proof.Machine

variable {c : Nat} (run : Instr → State c → Result c)

/-- The status outputs of the cycle, from the state before the edge (10_state R28, 30_encoding R74). -/
def driveStatus (s : State c) : Result c :=
  andThen (run .isEmpty s) fun s => andThen (run .isFull s) fun s => andThen (run .size s) fun s => run .peek s

/-- The consumer step of an edge: the wire command it is at, or nothing. -/
def consumerEdge (s : State c) : Result c :=
  match consumerInstr s with
  | none => .next s
  | some i => run i s

/-- RB's part of an edge: the status outputs, then the port operation that the inputs and `rd_en` ask for. -/
def rbEdge (rdEn : Bool) (s : State c) : Result c :=
  andThen (driveStatus run s.beginCycle) fun t => run (ctlInstr t.input rdEn) t

/-- The edge of RB taken alone, with `rd_en` its seventh input (43_top_cycle R170). -/
def rbAloneEdge (rdEn : Bool) (s : State c) : Result c :=
  andThen (rbEdge run rdEn s) fun t => .next t.endCycle

/-- The edge of the composed block (43_top_cycle R168): RB's part with DEC driving `rd_en`, then the consumer's use of what
it got. -/
def edge (s : State c) : Result c :=
  andThen (rbEdge run s.dec.rdEn s) fun t => andThen (consumerEdge run t) fun u => .next u.endCycle

end Sys2Proof.Machine
end

