-- ==== Sys2Proof/Machine/Step.lean ====
section
/-! DEFINITION. One step of this hardware is one rising clock edge (43_top_cycle R160, R168). -/

namespace Sys2Proof.Machine

/-- The step. -/
def step (s : State) : Host.Outcome State Fault Refusal := edge exec s

/-- `s` with the instruction of an opcode-table word placed where the next step runs it (log 4, log 5); `s` itself where the
word is none. -/
def State.withFetchWord (s : State) (nbits w : Nat) : State :=
  match tableEncoded nbits w with
  | some e => s.withEncoded e
  | none => s

end Sys2Proof.Machine
end

