-- ==== Sys2Proof/Machine/Clocked.lean ====
section
/-! DEFINITION. Rule R168 of 43_top_cycle written out as it stands, for any capacity: one function from (inputs, RB, DEC) to
(RB, DEC, events). The machine's step is made of instructions instead; that the two agree is a statement about it. The test
vectors of small capacities can be run on this one. -/

namespace Sys2Proof.Machine

/-- The last block of R168, which is also the step of RB taken alone (R170): get first, then put; `clr` wins, `rst` before
it. -/
def clockedRb {c : Nat} (inp : Inputs) (rdEn : Bool) (r : Rb c) : Rb c :=
  if inp.rst then r.init
  else if inp.clr then r.clear
  else
    let r1 := if fire inp rdEn r then r.advance else r
    if inp.wrEn then r1.put inp.wrData else r1

/-- The `case ds of` of R168; none in the states that 93 U6 refuses. -/
def clockedDec {c : Nat} (inp : Inputs) (r : Rb c) (d : Dec) : Option (Dec × List Event) :=
  if inp.rst then some (.cleared, [])
  else
    let b := r.buf.read r.tail
    let fires := fire inp d.rdEn r
    match d.ds with
    | .ah =>
      if fires && knownType (headerType b) then
        let t := headerType b
        let l := headerLen b
        some ({ d with typ := t, len := l, need := plen t l, idx := 0, ds := if plen t l = 0 then .ex else .ap }, [])
      else some (d, [])
    | .ap =>
      if fires then
        if d.idx < d.need then
          let idx := d.idx + 1
          some ({ d with pl := d.pl.setIfInBounds d.idx.toNat b, idx := idx, ds := if idx = d.need then .ex else .ap }, [])
        else none
      else some (d, [])
    | .ex =>
      if d.typ = 1 then some (.cleared, [.send [0x10]])
      else if d.typ = 2 then
        let r := be16 (d.payload 0) (d.payload 1) + be16 (d.payload 2) (d.payload 3)
        some (.cleared, [.send [0x32, highByte r, lowByte r]])
      else if d.typ = 6 then some (.cleared, [.log (d.pl.toList.take d.len.toNat)])
      else if d.typ = 4 then some ({ d with ds := .dw }, [.sleepReq (be16 (d.payload 0) (d.payload 1))])
      else none
    | .dw => if inp.sleepDone then some (.cleared, [.send [0x51, d.payload 2]]) else some (d, [])

/-- The whole step of R168. -/
def clockedStep {c : Nat} (inp : Inputs) (r : Rb c) (d : Dec) : Option (Rb c × Dec × List Event) :=
  (clockedDec inp r d).map fun (d', events) => (clockedRb inp d.rdEn r, d', events)

/-- The strobes of a cycle as 43_top_cycle R165 and R166 list them, from DEC before the edge and the inputs. -/
def clockedStrobes (inp : Inputs) (d : Dec) : Strobes :=
  if inp.rst then .none
  else match d.ds with
    | .ex =>
      if d.typ = 1 then { Strobes.none with sendValid := true, sendLen := 1, sendB0 := 0x10 }
      else if d.typ = 2 then
        let r := be16 (d.payload 0) (d.payload 1) + be16 (d.payload 2) (d.payload 3)
        { Strobes.none with sendValid := true, sendLen := 3, sendB0 := 0x32, sendB1 := highByte r, sendB2 := lowByte r }
      else if d.typ = 4 then
        { Strobes.none with sleepReq := true, sleepMs := be16 (d.payload 0) (d.payload 1) }
      else if d.typ = 6 then { Strobes.none with logValid := true, logLen := d.len, logB := d.pl }
      else .none
    | .dw =>
      if inp.sleepDone then
        { Strobes.none with sendValid := true, sendLen := 2, sendB0 := 0x51, sendB1 := d.payload 2 }
      else .none
    | .ah | .ap => .none

end Sys2Proof.Machine
end

