-- ==== Sys2Proof/Machine/Generic.lean ====
section
/-! DEFINITION. The machine with its capacity as an argument (00_scope R1, 92 D4): every instruction, the step, the step of
the block without its environment's record (10_state R31), and the machine as the host would run it. `exec`, `step` and
`core` are these at the hardware's 200; that they agree is a statement. -/

namespace Sys2Proof.Machine

variable {c : Nat}

/-- `exec` for any capacity: the same meanings. -/
def execAt (i : Instr) (s : State c) : Result c :=
  match i with
  | .init clr wrEn rdEn => Sys2Proof.Machine.execInit clr wrEn rdEn s
  | .reset wrEn rdEn => Sys2Proof.Machine.execReset wrEn rdEn s
  | .nop => Sys2Proof.Machine.execNop s
  | .get => Sys2Proof.Machine.execGet s
  | .put data => Sys2Proof.Machine.execPut data s
  | .putGet data => Sys2Proof.Machine.execPutGet data s
  | .isEmpty => Sys2Proof.Machine.execIsEmpty s
  | .isFull => Sys2Proof.Machine.execIsFull s
  | .size => Sys2Proof.Machine.execSize s
  | .peek => Sys2Proof.Machine.execPeek s
  | .unknown0 len => Sys2Proof.Machine.execUnknown0 len s
  | .echo len => Sys2Proof.Machine.execEcho len s
  | .add len => Sys2Proof.Machine.execAdd len s
  | .unknown3 len => Sys2Proof.Machine.execUnknown3 len s
  | .delay len => Sys2Proof.Machine.execDelay len s
  | .unknown5 len => Sys2Proof.Machine.execUnknown5 len s
  | .log len => Sys2Proof.Machine.execLog len s
  | .unknown7 len => Sys2Proof.Machine.execUnknown7 len s
  | .unknown8 len => Sys2Proof.Machine.execUnknown8 len s
  | .unknown9 len => Sys2Proof.Machine.execUnknown9 len s
  | .unknown10 len => Sys2Proof.Machine.execUnknown10 len s
  | .unknown11 len => Sys2Proof.Machine.execUnknown11 len s
  | .unknown12 len => Sys2Proof.Machine.execUnknown12 len s
  | .unknown13 len => Sys2Proof.Machine.execUnknown13 len s
  | .unknown14 len => Sys2Proof.Machine.execUnknown14 len s
  | .unknown15 len => Sys2Proof.Machine.execUnknown15 len s

/-- The step for any capacity. -/
def stepAt (s : State c) : Result c := edge execAt s

/-- The edge of RB taken alone, for any capacity (43_top_cycle R170). -/
def rbAloneStepAt (rdEn : Bool) (s : State c) : Result c := rbAloneEdge execAt rdEn s

/-- What one edge of the block answers beside its next state: the byte got, what the ports showed, the events. -/
structure Observed where
  got : Option Byte
  out : Ports
  events : List Event
  deriving DecidableEq, Repr

/-- The step in the form of 10_state R31 and 43_top_cycle R168: the machine's state is `Block c`; the capacity and the inputs
are arguments, the events are answered. -/
def blockStep (inp : Inputs) (b : Block c) : Host.Outcome (Block c × Observed) Fault Refusal :=
  match stepAt { toBlock := b, got := none, out := .reset, trace := [], env := [inp] } with
  | .next t => .next (t.toBlock, { got := t.got, out := t.out, events := t.trace })
  | .fault r => .fault r
  | .refused r => .refused r

/-- The machine of capacity `c` as the host would run it; a capacity of 0 has none (00_scope R1). -/
def machineAt (c : Nat) (hc : 1 ≤ c) : Host.Core :=
  { State := State c, Fault := Fault, Refusal := Refusal, step := stepAt, reset := .resetAt c hc }

end Sys2Proof.Machine
end

