-- ==== Sys2Proof/Safety.lean ====
section
/-! DEFINITION. The words that statements about RBCMD use: the abstract queue, the invariants, what a run shows, the named
conditions and the waits. -/

namespace Sys2Proof.Machine

/-! ### The abstract queue and the invariants -/

/-- The unread bytes, oldest first (40_ringbuffer_ops R101). -/
def Rb.contents {c : Nat} (r : Rb c) : List Byte :=
  (List.range r.size).map fun i => r.buf.read ((r.tail.val + i) % c)

/-- I3 of 10_state R14 and the canonical form of the storage; I1 and I2 hold by type, I4 and I5 follow. -/
def Rb.ok {c : Nat} (r : Rb c) : Bool := r.buf.wf c && (!r.full || r.head == r.tail)

/-- I1 to I5 of 10_state R14. -/
def Rb.invariants {c : Nat} (r : Rb c) : Prop :=
  (r.head.val < c) ∧ (r.tail.val < c) ∧ (r.full = true → r.head = r.tail) ∧
  (r.size = 0 ↔ (r.full = false ∧ r.head = r.tail)) ∧ r.size ≤ c

/-- What 10_state R18 to R21 say of the registers: in AH they are the reset ones; else a known command is in progress with
its payload length in `need`, `idx` bytes of it received, and every later payload register 0. -/
def Dec.ok (d : Dec) : Bool :=
  let inProgress := knownType d.typ && d.need == plen d.typ d.len && (d.pl.toList.drop d.idx.toNat).all (· == 0)
  match d.ds with
  | .ah => d == .cleared
  | .ap => inProgress && decide (d.idx < d.need)
  | .ex => inProgress && d.idx == d.need
  | .dw => inProgress && d.idx == d.need && d.typ == 4

/-- The sizes that 00_scope R6 gives events: a Send has 1 to 3 bytes, a Log at most 15. -/
def Event.wf : Event → Bool
  | .send bs => decide (1 ≤ bs.length) && decide (bs.length ≤ 3)
  | .log bs => decide (bs.length ≤ 15)
  | .sleepReq _ => true

/-- At most one of the three strobes is raised (30_encoding R75). -/
def Strobes.atMostOne (p : Strobes) : Bool :=
  !(p.sendValid && p.logValid) && !(p.sendValid && p.sleepReq) && !(p.logValid && p.sleepReq)

/-- The status ports agree with each other and with the capacity (40_ringbuffer_ops R103, R95), and at most one strobe is raised. -/
def Ports.ok (c : Nat) (p : Ports) : Bool :=
  decide (p.size ≤ c) && p.empty == (p.size == 0) && p.full == (p.size == c) &&
  p.rdData.isNone == p.empty && p.strobes.atMostOne

/-- The invariant of the machine. -/
def State.ok {c : Nat} (s : State c) : Bool := s.rb.ok && s.dec.ok && s.out.ok c && s.trace.all Event.wf

/-! ### What a run shows -/

/-- `n` GETs one after another: the bytes returned and the queue left (40_ringbuffer_ops R102). -/
def Rb.pop {c : Nat} : Nat → Rb c → List Byte × Rb c
  | 0, r => ([], r)
  | n + 1, r => (r.get.1.toList ++ (Rb.pop n r.get.2).1, (Rb.pop n r.get.2).2)

/-- `n` edges: the state after, the bytes that DEC got, and the packets it presented (a packet at the edge that enters
EX); none if the machine stops. -/
def observe : Nat → State → Option (State × List Byte × List Packet)
  | 0, s => some (s, [], [])
  | n + 1, s =>
    match step s with
    | .next t =>
      (observe n t).map fun (u, got, packets) =>
        (u, t.got.toList ++ got, (if t.dec.ds = .ex then [t.dec.payloadPacket] else []) ++ packets)
    | .fault _ => none
    | .refused _ => none

/-- The bytes that the producer puts at the edges with these inputs. -/
def putBytes (inputs : List Inputs) : List Byte := (inputs.filter (·.wrEn)).map (·.wrData)

/-- The events of a packet (42_command_dispatch R142 to R145), those of a DELAY with its answer. -/
def packetEvents (p : Packet) : List Event :=
  if p.typ = 1 then [.send [0x10]]
  else if p.typ = 2 then
    match p.payload with
    | [ah, al, bh, bl] =>
      [.send [0x32, highByte (be16 ah al + be16 bh bl), lowByte (be16 ah al + be16 bh bl)]]
    | _ => []
  else if p.typ = 4 then
    match p.payload with
    | [dh, dl, e] => [.sleepReq (be16 dh dl), .send [0x51, e]]
    | _ => []
  else if p.typ = 6 then [.log p.payload]
  else []

/-- The packets a frame is read as (41_frame_decoder R126, R131): one, or none for an unassigned type code. -/
def framePackets : Frame → List Packet
  | .echo l => [⟨1, l, []⟩]
  | .add l a b => [⟨2, l, [highByte a, lowByte a, highByte b, lowByte b]⟩]
  | .delay l d e => [⟨4, l, [highByte d, lowByte d, e]⟩]
  | .log text => [⟨6, BitVec.ofNat 4 text.length, text⟩]
  | .unknown _ _ => []

/-- The twelve instructions of the unassigned type codes with length nibble `l` (42_command_dispatch R146). -/
def unknownInstrs (l : Nibble) : List Instr :=
  [.unknown0 l, .unknown3 l, .unknown5 l, .unknown7 l, .unknown8 l, .unknown9 l, .unknown10 l, .unknown11 l,
   .unknown12 l, .unknown13 l, .unknown14 l, .unknown15 l]

/-! ### Conditions and waits -/

/-- An edge at which neither `rst` nor `clr` nor `wr_en` is 1; `sleep_done` is free. -/
def Inputs.quiet (i : Inputs) : Bool := !i.rst && !i.clr && !i.wrEn

/-- The labels of 60_exceptions R185. No port carries them. -/
inductive Condition where
  | overflow
  | starvation
  | unknownCommand
  | allocFailure
  deriving DecidableEq, Repr

/-- The conditions that the coming edge meets and absorbs (60_exceptions R181 to R183). `allocFailure` is never among them
(R184). -/
def State.conditions {c : Nat} (s : State c) : List Condition :=
  let inp := s.input
  let fires := fire inp s.dec.rdEn s.rb
  (if !inp.rst && !inp.clr && inp.wrEn && s.rb.full && !fires then [Condition.overflow] else []) ++
  (if !inp.rst && !inp.clr && s.dec.rdEn && s.rb.isEmpty then [Condition.starvation] else []) ++
  (if fires && s.dec.ds == .ah && !knownType (headerType (s.rb.buf.read s.rb.tail)) then [Condition.unknownCommand]
   else [])

/-- None of the first `n` edges meets the Overflow condition (60_exceptions R181). -/
def neverOverflows : Nat → State → Bool
  | 0, _ => true
  | n + 1, s =>
    decide (Condition.overflow ∉ s.conditions) &&
      match step s with
      | .next t => neverOverflows n t
      | .fault _ => false
      | .refused _ => false

/-- The consumer waits for a byte (60_exceptions R198). -/
def State.blockedGet {c : Nat} (s : State c) : Bool := s.dec.rdEn && s.rb.isEmpty

/-- The consumer waits for the timer (60_exceptions R198). -/
def State.delayWait {c : Nat} (s : State c) : Bool := s.dec.ds == .dw

/-- Quiescence (60_exceptions R200; 92 D24 for the other inputs): DEC awaits a header, the queue is empty, and no input is
asserted at any edge to come. -/
def State.quiescent {c : Nat} (s : State c) : Bool :=
  s.dec.ds == .ah && s.rb.isEmpty && s.env.all fun i => !i.rst && !i.clr && !i.wrEn && !i.sleepDone

end Sys2Proof.Machine
end

