-- ==== Sys2Proof/Certificates/Slice0/Obligations.lean ====
section
/-! DEFINITION. The statements about the model, for the provers. "Unchanged" is said by equations of whole records: a
field that an equation does not name keeps its value.

The spec marks many of its numbered rules as its own decisions (92_eei_decisions, D<n>) or as derived. A statement that
rests on such a mark, or on a choice of the model (log <n> is notes/assumptions/<n>.md), names it at the end of its
docstring, after "Spec's own" or "The model's own"; its basis in OBLIGATIONS.json is derived. -/

open Sys2Proof Sys2Proof.Machine

/-! ### Reset, the invariant, totality -/

/-- 10_state R30: the value of every piece of state after `rst`, and the outputs derived from them. Spec's own: D5,
D12. -/
def Obligations.ResetStateHasTheStatedValues : Prop :=
  (∀ i, State.reset.rb.buf.read i = 0) ∧ State.reset.rb.head.val = 0 ∧ State.reset.rb.tail.val = 0 ∧
  State.reset.rb.full = false ∧ State.reset.dec.ds = .ah ∧ State.reset.dec.typ = 0 ∧ State.reset.dec.len = 0 ∧
  State.reset.dec.need = 0 ∧ State.reset.dec.idx = 0 ∧ (∀ i : Fin 15, State.reset.dec.pl[i] = 0) ∧
  State.reset.out.empty = State.reset.rb.isEmpty ∧ State.reset.out.empty = true ∧
  State.reset.out.full = State.reset.rb.isFull ∧ State.reset.out.full = false ∧
  State.reset.out.size = State.reset.rb.size ∧ State.reset.out.size = 0 ∧
  State.reset.out.strobes.sendValid = false ∧ State.reset.out.strobes.logValid = false ∧
  State.reset.out.strobes.sleepReq = false

/-- The invariant holds in the reset state (10_state R14, R18 to R21). Spec's own: D12; the choice of invariant is the
model's. -/
def Obligations.ResetStateIsOk : Prop := State.reset.ok = true

/-- Every step keeps the invariant: RB's I1 to I3 and the storage's form (10_state R14), DEC's registers (R18 to R21),
the ports' agreement and at most one strobe (40_ringbuffer_ops R103, 30_encoding R75), the events' sizes (00_scope
R6). Spec's own: D12, D7; the choice of invariant is the model's. -/
def Obligations.StepKeepsTheInvariant : Prop := ∀ s t : State, s.ok = true → step s = .next t → t.ok = true

/-- 60_exceptions R180: the step answers a next state in every state that meets the invariant, under every input.
Spec's own: D13. -/
def Obligations.OkStatesAlwaysStep : Prop := ∀ s : State, s.ok = true → ∃ t, step s = .next t

/-- No run from reset stops, whatever the environment does (60_exceptions R180, R200), and the invariant holds at its
end. Spec's own: D13, log 1. -/
def Obligations.RunsFromResetNeverStop : Prop :=
  ∀ (env : List Inputs) (n : Nat),
    ∃ t got packets, observe n { State.reset with env := env } = some (t, got, packets) ∧ t.ok = true

/-! ### The step -/

/-- 43_top_cycle R168: a step made of decoded instructions is the function that R168 writes out, in every state: the
same ring buffer, decoder and events. Beside that it records the byte got (R162), the status outputs of the state before
the edge (10_state R28) and the strobes of the event (30_encoding R75), and drops the inputs it sampled. The step refuses
exactly the states that `clockedStep` leaves out. That clause is not R168's: its AP case has no guard `idx < need`. It is the
model's choice, on 93 U6 for Execute of a type code outside 1, 2, 4, 6 and for a payload byte got with `need = 0` or
`idx > need`, and DEDUCED in log 8 for a payload byte got with `idx = need`; no run from reset meets any of them. Spec's
own: D13. The model's own: log 8; log 2 for the recorded fields. -/
def Obligations.StepIsRuleR168 : Prop :=
  ∀ s : State,
    match clockedStep s.input s.rb s.dec with
    | some (r, d, events) =>
      step s = .next
        { rb := r
          dec := d
          got := if fire s.input s.dec.rdEn s.rb then some (s.rb.buf.read s.rb.tail) else none
          out :=
            { empty := s.rb.isEmpty, full := s.rb.full, size := s.rb.size, rdData := s.rb.peek
              strobes := (events.map Event.strobes).getLastD .none }
          trace := s.trace ++ events
          env := s.env.tail }
    | none => ∃ why, step s = .refused why

/-- 43_top_cycle R165, R166: the strobes of a cycle are those of the two rules' tables, and Execute lasts one cycle.
Spec's own: D14, D16. -/
def Obligations.StrobesFollowR165AndR166 : Prop :=
  ∀ s : State, s.ok = true →
    ∃ t, step s = .next t ∧ t.out.strobes = clockedStrobes s.input s.dec ∧ (s.dec.ds = .ex → t.dec.ds ≠ .ex)

/-- A step runs decoded instructions: the port operation that the inputs and DEC's read enable select (43_top_cycle
R161 to R164), on the state whose output ports show the cycle's status; then the command of the header byte just got,
or the command in progress, unless `rst` is 1 (R163); then the inputs are past. Spec's own: D7, D8, D9, D13; log 6,
log 7, log 19. -/
def Obligations.StepRunsTheDecodedInstruction : Prop :=
  ∀ s shown : State,
    shown =
      { s with out :=
        { empty := s.rb.isEmpty, full := s.rb.full, size := s.rb.size, rdData := s.rb.peek, strobes := .none } } →
    (s.input.rst = true →
      step s = andThen (exec (decodeCtl (ctlWord true s.input.clr s.input.wrEn s.dec.rdEn) s.input.wrData) shown)
        fun u => .next { u with env := u.env.tail }) ∧
    (s.input.rst = false → s.dec.ds = .ah → s.input.clr = false → s.rb.isEmpty = false →
      step s = andThen (exec (decodeCtl (ctlWord false false s.input.wrEn true) s.input.wrData) shown)
        fun t => andThen (exec (decodeHeader (s.rb.buf.read s.rb.tail)) t)
        fun u => .next { u with env := u.env.tail }) ∧
    (s.input.rst = false → s.dec.ds = .ah → (s.input.clr = true ∨ s.rb.isEmpty = true) →
      step s = andThen (exec (decodeCtl (ctlWord false s.input.clr s.input.wrEn true) s.input.wrData) shown)
        fun u => .next { u with env := u.env.tail }) ∧
    (s.input.rst = false → s.dec.ds ≠ .ah →
      step s = andThen
        (exec (decodeCtl (ctlWord false s.input.clr s.input.wrEn (s.dec.ds == .ap)) s.input.wrData) shown)
        fun t => andThen (exec (decodeHeader (header s.dec.typ s.dec.len)) t)
        fun u => .next { u with env := u.env.tail })

/-! ### Port operations -/

/-- INIT (40_ringbuffer_ops R90, 70_reset_and_hazards R210): every piece of RB and DEC to its reset value, whatever
the other control inputs are; ports, trace and inputs to come unchanged. Spec's own: D5, D12. -/
def Obligations.InitPutsEveryRegisterAtItsResetValue : Prop :=
  ∀ (c w r : Bool) (s : State), ∃ t, exec (.init c w r) s = .next t ∧
    (∀ i, t.rb.buf.read i = 0) ∧ t.rb.head.val = 0 ∧ t.rb.tail.val = 0 ∧ t.rb.full = false ∧ t.rb.isEmpty = true ∧
    t.rb.size = 0 ∧ t.dec.ds = .ah ∧ t.dec.typ = 0 ∧ t.dec.len = 0 ∧ t.dec.need = 0 ∧ t.dec.idx = 0 ∧
    (∀ i : Fin 15, t.dec.pl[i] = 0) ∧ t = { s with rb := t.rb, dec := t.dec, got := none }

/-- RESET (40_ringbuffer_ops R91): the queue is empty with both indices 0; the storage, DEC and everything else
unchanged; a put byte is discarded and a get does not fire. Spec's own: D9, D10. -/
def Obligations.ResetOperationEmptiesTheQueue : Prop :=
  ∀ (w r : Bool) (s : State), ∃ q, exec (.reset w r) s = .next { s with rb := q, got := none } ∧
    q.head.val = 0 ∧ q.tail.val = 0 ∧ q.full = false ∧ q.buf = s.rb.buf ∧ q.isEmpty = true ∧ q.size = 0 ∧ q.contents = []

/-- NOP (40_ringbuffer_ops R99): RB and everything else keep their values; no byte is got. Spec's own: D9. -/
def Obligations.NopChangesNothing : Prop :=
  ∀ s : State, exec .nop s = .next { s with got := none }

/-- PUT (40_ringbuffer_ops R96): the byte goes to slot `head` and no other slot changes; `head` steps, `tail` steps
only on a full queue, `full` is their equality; the unread bytes end with the new byte and have lost the oldest only
if the queue was full. Spec's own: R96's last line, marked derived. -/
def Obligations.PutStoresAndDropsOldest : Prop :=
  ∀ (b : Byte) (s : State), s.rb.ok = true → ∃ r, exec (.put b) s = .next { s with rb := r, got := none } ∧
    (∀ a, r.buf.read a = if a = s.rb.head.val then b else s.rb.buf.read a) ∧
    r.head.val = (s.rb.head.val + 1) % 200 ∧
    r.tail.val = (if s.rb.full then (s.rb.tail.val + 1) % 200 else s.rb.tail.val) ∧
    (r.full = true ↔ r.head = r.tail) ∧ r.isEmpty = false ∧
    r.contents = (if s.rb.size < 200 then s.rb.contents else s.rb.contents.drop 1) ++ [b]

/-- GET on a queue that is not empty (40_ringbuffer_ops R97): the oldest unread byte, at slot `tail`, is returned and
is no longer unread; `tail` steps, `full` clears, `head` and the storage are unchanged. Spec's own: D7, D10. -/
def Obligations.GetReturnsTheOldestByte : Prop :=
  ∀ s : State, s.rb.ok = true → s.rb.isEmpty = false →
    ∃ b r, exec .get s = .next { s with rb := r, got := some b } ∧
      b = s.rb.buf.read s.rb.tail.val ∧ s.rb.contents = b :: r.contents ∧ r.buf = s.rb.buf ∧ r.head = s.rb.head ∧
      r.tail.val = (s.rb.tail.val + 1) % 200 ∧ r.full = false

/-- GET on an empty queue does not fire (40_ringbuffer_ops R97, 60_exceptions R182). Spec's own: D7. -/
def Obligations.GetOnEmptyHolds : Prop :=
  ∀ s : State, s.rb.isEmpty = true → exec .get s = .next { s with got := none }

/-- PUT_GET (40_ringbuffer_ops R98): on an empty queue the PUT alone; else the oldest byte is returned and the new one
appended, no byte is dropped, the number of unread bytes and `full` stay; only slot `head` is written. Spec's own: D8.
-/
def Obligations.PutGetGetsFirst : Prop :=
  ∀ (b : Byte) (s : State), s.rb.ok = true →
    (s.rb.isEmpty = true →
      exec (.putGet b) s = exec (.put b) s ∧
      ∃ r, exec (.putGet b) s = .next { s with rb := r, got := none } ∧ r.contents = [b]) ∧
    (s.rb.isEmpty = false →
      ∃ g r, exec (.putGet b) s = .next { s with rb := r, got := some g } ∧
        s.rb.contents = g :: s.rb.contents.drop 1 ∧ r.contents = s.rb.contents.drop 1 ++ [b] ∧
        r.size = s.rb.size ∧ r.full = s.rb.full ∧
        r.head.val = (s.rb.head.val + 1) % 200 ∧ r.tail.val = (s.rb.tail.val + 1) % 200 ∧
        (∀ a, r.buf.read a = if a = s.rb.head.val then b else s.rb.buf.read a))

/-- The four queries (40_ringbuffer_ops R92 to R95) show whether there is no unread byte, whether there are `C` of
them, how many there are, and the oldest of them; each changes its own port and nothing else. Spec's own: D7 and R92
to R94, marked derived; log 10, log 20. -/
def Obligations.QueriesShowTheQueue : Prop :=
  ∀ s : State, s.rb.ok = true →
    exec .isEmpty s = .next { s with out := { s.out with empty := decide (s.rb.contents = []) } } ∧
    exec .isFull s = .next { s with out := { s.out with full := decide (s.rb.contents.length = 200) } } ∧
    exec .size s = .next { s with out := { s.out with size := s.rb.contents.length } } ∧
    exec .peek s = .next { s with out := { s.out with rdData := s.rb.contents.head? } } ∧
    s.rb.contents.length =
      (if s.rb.full then 200
       else if s.rb.tail.val ≤ s.rb.head.val then s.rb.head.val - s.rb.tail.val
       else 200 + s.rb.head.val - s.rb.tail.val)

/-! ### Wire commands -/

/-- 41_frame_decoder R122: what a header of each type code writes; the payload registers are not written, and a header
of an unassigned type code writes nothing. The model's own: log 6. -/
def Obligations.HeaderDispatchSetsTheRegisters : Prop :=
  ∀ (l : Nibble) (s : State), s.dec.ds = .ah →
    exec (.echo l) s =
      .next { s with dec := { s.dec with typ := 1, len := l, need := 0, idx := 0, ds := .ex } } ∧
    exec (.add l) s =
      .next { s with dec := { s.dec with typ := 2, len := l, need := 4, idx := 0, ds := .ap } } ∧
    exec (.delay l) s =
      .next { s with dec := { s.dec with typ := 4, len := l, need := 3, idx := 0, ds := .ap } } ∧
    exec (.log l) s =
      .next { s with dec :=
        { s.dec with typ := 6, len := l, need := l, idx := 0, ds := if l = 0 then .ex else .ap } } ∧
    (∀ i ∈ unknownInstrs l, exec i s = .next s)

/-- 41_frame_decoder R121, R122: the edge that gets a header byte `h` splits it into `t = h / 16` and `l = h mod 16` and
dispatches on `t` in the same step; the payload registers are 0 before it and are not written; an unassigned type code
writes nothing. That this is one edge with `clr` 0 which shows `h` as the byte got and raises no strobe is 43_top_cycle R162,
R163, R165, R168. Spec's own: D7, D9, D13, D14, and D12 for the payload registers being 0; log 2 for `got` and `out`. -/
def Obligations.HeaderIsDispatchedAtTheEdgeThatGetsIt : Prop :=
  ∀ (s : State) (h : Byte) (t l : Nibble), s.ok = true → s.dec.ds = .ah → s.input.rst = false → s.input.clr = false →
    s.rb.isEmpty = false → h = s.rb.buf.read s.rb.tail.val → h.toNat = 16 * t.toNat + l.toNat →
    (∀ i : Fin 15, s.dec.pl[i] = 0) ∧
    ∃ u, step s = .next u ∧ u.got = some h ∧ u.trace = s.trace ∧ u.out.strobes = .none ∧
      (t = 1 → u.dec = { s.dec with typ := 1, len := l, need := 0, idx := 0, ds := .ex }) ∧
      (t = 2 → u.dec = { s.dec with typ := 2, len := l, need := 4, idx := 0, ds := .ap }) ∧
      (t = 4 → u.dec = { s.dec with typ := 4, len := l, need := 3, idx := 0, ds := .ap }) ∧
      (t = 6 → u.dec = { s.dec with typ := 6, len := l, need := l, idx := 0, ds := if l = 0 then .ex else .ap }) ∧
      (t ≠ 1 → t ≠ 2 → t ≠ 4 → t ≠ 6 → u.dec = s.dec)

/-- ECHO in the Execute step (42_command_dispatch R142): the fixed byte 0x10, and DEC back at reset. Spec's own: D12,
D14; log 6. -/
def Obligations.EchoAnswersItsMarker : Prop :=
  ∀ (l : Nibble) (s : State), s.dec.ds = .ex →
    exec (.echo l) s = .next { s with
      dec := .cleared
      trace := s.trace ++ [.send [0x10]]
      out := { s.out with strobes := { Strobes.none with sendValid := true, sendLen := 1, sendB0 := 0x10 } } }

/-- ADD in the Execute step (42_command_dispatch R143): the sum of the two big-endian operands modulo 65536, high byte
first, with the carry between its bytes; DEC back at reset. Spec's own: D12, D14, D17, D23; log 6. -/
def Obligations.AddAnswersTheSumModulo65536 : Prop :=
  ∀ (l : Nibble) (s : State), s.dec.ds = .ex →
    ∃ hi lo : Byte,
      exec (.add l) s = .next { s with
        dec := .cleared
        trace := s.trace ++ [.send [0x32, hi, lo]]
        out := { s.out with strobes :=
          { Strobes.none with sendValid := true, sendLen := 3, sendB0 := 0x32, sendB1 := hi, sendB2 := lo } } } ∧
      256 * hi.toNat + lo.toNat =
        ((s.dec.pl[0].toNat * 256 + s.dec.pl[1].toNat) + (s.dec.pl[2].toNat * 256 + s.dec.pl[3].toNat)) % 65536 ∧
      lo.toNat = (s.dec.pl[1].toNat + s.dec.pl[3].toNat) % 256 ∧
      hi.toNat = (s.dec.pl[0].toNat + s.dec.pl[2].toNat +
        (if 256 ≤ s.dec.pl[1].toNat + s.dec.pl[3].toNat then 1 else 0)) % 256

/-- DELAY in the Execute step (42_command_dispatch R144): the request for `D` milliseconds, and DEC waits. Spec's own:
D14, D16; log 6. -/
def Obligations.DelayAsksForItsSleep : Prop :=
  ∀ (l : Nibble) (s : State), s.dec.ds = .ex →
    ∃ d : Half, d.toNat = s.dec.pl[0].toNat * 256 + s.dec.pl[1].toNat ∧
      exec (.delay l) s = .next { s with
        dec := { s.dec with ds := .dw }
        trace := s.trace ++ [.sleepReq d]
        out := { s.out with strobes := { Strobes.none with sleepReq := true, sleepMs := d } } }

/-- DELAY in the wait (42_command_dispatch R144, 10_state R27): nothing changes while `sleep_done` is 0; when it is 1
the answer is sent and DEC is back at reset. Spec's own: D12, D16; log 6, log 13. -/
def Obligations.DelayHoldsUntilTheTimerAnswers : Prop :=
  ∀ (l : Nibble) (s : State), s.dec.ds = .dw →
    (s.input.sleepDone = false → exec (.delay l) s = .next s) ∧
    (s.input.sleepDone = true →
      exec (.delay l) s = .next { s with
        dec := .cleared
        trace := s.trace ++ [.send [0x51, s.dec.pl[2]]]
        out := { s.out with strobes :=
          { Strobes.none with sendValid := true, sendLen := 2, sendB0 := 0x51, sendB1 := s.dec.pl[2] } } })

/-- LOG in the Execute step (42_command_dispatch R145): the `len` payload bytes as they came, no response, DEC back at
reset. Spec's own: D12, D14, D15; log 6. -/
def Obligations.LogHandsOverItsPayload : Prop :=
  ∀ (l : Nibble) (s : State), s.dec.ok = true → s.dec.ds = .ex → s.dec.typ = 6 →
    ∃ text : List Byte, text.length = s.dec.len.toNat ∧
      (∀ i : Fin 15, i.val < s.dec.len.toNat → text[i.val]? = some s.dec.pl[i]) ∧
      exec (.log l) s = .next { s with
        dec := .cleared
        trace := s.trace ++ [.log text]
        out := { s.out with strobes :=
          { Strobes.none with logValid := true, logLen := s.dec.len, logB := s.dec.pl } } }

/-- UNKNOWN (42_command_dispatch R146, 41_frame_decoder R126): each of the twelve unassigned headers changes nothing,
for every length nibble. The model's own: log 6. -/
def Obligations.UnknownHeadersChangeNothing : Prop :=
  ∀ (l : Nibble) (s : State), s.dec.ds = .ah →
    exec (.unknown0 l) s = .next s ∧ exec (.unknown3 l) s = .next s ∧ exec (.unknown5 l) s = .next s ∧
    exec (.unknown7 l) s = .next s ∧ exec (.unknown8 l) s = .next s ∧ exec (.unknown9 l) s = .next s ∧
    exec (.unknown10 l) s = .next s ∧ exec (.unknown11 l) s = .next s ∧ exec (.unknown12 l) s = .next s ∧
    exec (.unknown13 l) s = .next s ∧ exec (.unknown14 l) s = .next s ∧ exec (.unknown15 l) s = .next s

/-- 41_frame_decoder R124: a byte got in AP goes to `pl[idx]` whatever its value, `idx` counts it, Execute follows
when it is the last one; with no byte got, everything is kept. Spec's own: D12; log 6. -/
def Obligations.PayloadByteIsCollectedOrAwaited : Prop :=
  ∀ (i : Instr) (s : State), i.format = .hdr → s.dec.ds = .ap →
    (s.got = none → exec i s = .next s) ∧
    (∀ b, s.got = some b → s.dec.idx < s.dec.need →
      ∃ d, exec i s = .next { s with dec := d } ∧
        d.idx.toNat = s.dec.idx.toNat + 1 ∧
        (∀ k : Fin 15, d.pl[k] = if k.val = s.dec.idx.toNat then b else s.dec.pl[k]) ∧
        d.typ = s.dec.typ ∧ d.len = s.dec.len ∧ d.need = s.dec.need ∧
        d.ds = if s.dec.idx.toNat + 1 = s.dec.need.toNat then .ex else .ap)

/-- 41_frame_decoder R128: the step that brings DEC back to AH clears every register of it. Spec's own: D12. -/
def Obligations.ReturnToAwaitHeaderClearsDecoder : Prop :=
  ∀ (i : Instr) (s t : State), i.format = .hdr → s.dec.ds ≠ .ah → exec i s = .next t → t.dec.ds = .ah →
    t.dec.typ = 0 ∧ t.dec.len = 0 ∧ t.dec.need = 0 ∧ t.dec.idx = 0 ∧ ∀ k : Fin 15, t.dec.pl[k] = 0

/-- 42_command_dispatch R141: a wire command's step touches DEC's registers, and emits at most one event, on the ports
and at the end of the trace; RB, the byte got, the status outputs and the inputs to come are unchanged. Spec's own:
D14; log 6. -/
def Obligations.CommandsTouchOnlyDecoderAndEvents : Prop :=
  ∀ (i : Instr) (s t : State), i.format = .hdr → exec i s = .next t →
    t.rb = s.rb ∧ t.got = s.got ∧ t.env = s.env ∧
    ((t.trace = s.trace ∧ t.out = s.out) ∨
     ∃ e : Event, e.wf = true ∧ t.trace = s.trace ++ [e] ∧ t.out = { s.out with strobes := e.strobes })

/-- A port operation always completes and touches RB alone: ports, trace and inputs to come are unchanged; DEC too,
but for INIT; no slot but `head` changes, but for INIT, and slot `head` only by PUT and PUT_GET (10_state R10, R15).
Spec's own: D9, D10. -/
def Obligations.PortOperationsTouchOnlyTheRingBuffer : Prop :=
  ∀ (i : Instr) (s : State), i.format = .ctl → s.rb.buf.wf 200 = true →
    ∃ t, exec i s = .next t ∧ t.out = s.out ∧ t.trace = s.trace ∧ t.env = s.env ∧
      ((∀ c w r, i ≠ .init c w r) → t.dec = s.dec ∧ ∀ a, a ≠ s.rb.head.val → t.rb.buf.read a = s.rb.buf.read a) ∧
      ((∀ c w r, i ≠ .init c w r) → (∀ b, i ≠ .put b ∧ i ≠ .putGet b) → t.rb.buf = s.rb.buf)

/-- Two cases that no run from reset meets are refused by name: Execute of an unassigned command (93 U6, 41_frame_decoder
R130), and a payload byte got while `ds = AP` and `idx` is not below `need` (93 U6 for `need = 0` and `idx > need`; log 8,
DEDUCED from 10_state R19, for `idx = need`). Other unreachable states are not refused: DW with any type code answers as a
Delay (log 13), EX and DW do not look at `idx`, and AP with no byte got holds. The model's own: log 8. -/
def Obligations.UnassignedExecuteAndSurplusPayloadAreRefused : Prop :=
  (∀ (l : Nibble) (s : State), s.dec.ds = .ex → ∀ i ∈ unknownInstrs l, exec i s = .refused .executeOfUnknownType) ∧
  (∀ (i : Instr) (s : State) (b : Byte), i.format = .hdr → s.dec.ds = .ap → s.got = some b → ¬ s.dec.idx < s.dec.need →
    exec i s = .refused .payloadBeyondNeed)

/-! ### The ring buffer, for every capacity -/

/-- 10_state R14: INIT, RESET, PUT, GET, PUT_GET and NOP keep I1 to I5, and the reset state has them. -/
def Obligations.RingOperationsKeepTheInvariants : Prop :=
  (∀ (c : Nat) (r : Rb c) (b : Byte), r.invariants →
    r.init.invariants ∧ r.clear.invariants ∧ (r.put b).invariants ∧ r.get.2.invariants ∧ (r.putGet b).2.invariants) ∧
  (∀ s t : State, s.rb.invariants → exec .nop s = .next t → t.rb.invariants) ∧
  State.reset.rb.invariants

/-- 40_ringbuffer_ops R101: the laws of the abstract queue, and every value the ports or a GET show is a function of
the unread bytes and the capacity. Spec's own: R101, marked derived. -/
def Obligations.RingBufferIsAQueueOfItsContents : Prop :=
  ∀ (c : Nat) (r : Rb c) (b : Byte), r.ok = true →
    r.init.contents = [] ∧ r.clear.contents = [] ∧
    (r.put b).contents = (if r.size < c then r.contents ++ [b] else r.contents.drop 1 ++ [b]) ∧
    (r.isEmpty = false → r.get.1 = r.contents.head? ∧ r.get.2.contents = r.contents.drop 1) ∧
    ∀ q : Rb c, q.ok = true → q.contents = r.contents →
      q.isEmpty = r.isEmpty ∧ q.isFull = r.isFull ∧ q.size = r.size ∧ q.peek = r.peek ∧ q.get.1 = r.get.1

/-- 40_ringbuffer_ops R102: from an empty queue, up to `C` bytes put come back in order; of more than `C` bytes put
exactly the last `C` are left, in order. That the queue is empty at the start is R102's own inference: "Both start from an
empty queue (the source does not say so; ...) [derived: from rule R101]". Spec's own: that sentence. -/
def Obligations.FifoRoundTripAndOverflow : Prop :=
  ∀ (c : Nat) (r : Rb c) (bytes : List Byte), r.ok = true → r.contents = [] →
    (bytes.length ≤ c → ((bytes.foldl Rb.put r).pop bytes.length).1 = bytes) ∧
    (c ≤ bytes.length →
      (bytes.foldl Rb.put r).contents = bytes.drop (bytes.length - c) ∧
      ((bytes.foldl Rb.put r).pop c).1 = bytes.drop (bytes.length - c))

/-- 40_ringbuffer_ops R103: the size is 0 exactly when the queue is empty and `C` exactly when it is full. -/
def Obligations.SizeAgreesWithFlags : Prop :=
  ∀ (c : Nat) (r : Rb c), r.ok = true → (r.size = 0 ↔ r.isEmpty = true) ∧ (r.size = c ↔ r.isFull = true)

/-- 40_ringbuffer_ops R104, 00_scope R2: an index steps by one or from `C - 1` to 0; indices fit `W` bits and sizes
`SW` bits; both widths are 8 for this hardware. Spec's own: R104 and R2, marked derived. -/
def Obligations.IndicesAndSizesFitTheirWidths : Prop :=
  (∀ (c : Nat) (x : Fin c),
    (nextIdx x).val = (if x.val = c - 1 then 0 else x.val + 1) ∧ x.val < 2 ^ Config.indexWidth c) ∧
  (∀ (c : Nat) (r : Rb c), r.ok = true → r.size < 2 ^ Config.sizeWidth c) ∧
  Config.indexWidth Config.capacity = 8 ∧ Config.sizeWidth Config.capacity = 8

/-! ### Operands and routing -/

/-- 30_encoding R66: the operands are big-endian, zero-extended, unsigned. -/
def Obligations.OperandsAreBigEndian : Prop :=
  ∀ d : Dec,
    d.operandA.toNat = d.pl[0].toNat * 256 + d.pl[1].toNat ∧
    d.operandB.toNat = d.pl[2].toNat * 256 + d.pl[3].toNat ∧
    d.operandD.toNat = d.pl[0].toNat * 256 + d.pl[1].toNat ∧
    d.operandEcho = d.pl[2]

/-- 42_command_dispatch R140, 10_state R24: each select is true exactly while the packet is valid (`ds = EX`) with its own
type code, 1, 2, 4 or 6; exactly one is true in every Execute step, none in the other decoder states; and the event that the
step emits is that of the handler selected (R142 to R145). Spec's own: D25, D14. -/
def Obligations.PacketIsRoutedToOneHandler : Prop :=
  (∀ d : Dec,
    (d.packet.valid = true ↔ d.ds = .ex) ∧
    (d.packet.selEcho = true ↔ d.ds = .ex ∧ d.typ = 1) ∧
    (d.packet.selAdd = true ↔ d.ds = .ex ∧ d.typ = 2) ∧
    (d.packet.selDelay = true ↔ d.ds = .ex ∧ d.typ = 4) ∧
    (d.packet.selLog = true ↔ d.ds = .ex ∧ d.typ = 6)) ∧
  (∀ d : Dec, d.ok = true →
    [d.packet.selEcho, d.packet.selAdd, d.packet.selDelay, d.packet.selLog].count true = if d.ds = .ex then 1 else 0) ∧
  (∀ s : State, s.ok = true → s.input.rst = false → s.dec.packet.valid = true →
    ∃ t e, step s = .next t ∧ t.trace = s.trace ++ [e] ∧
      (s.dec.packet.selEcho = true → e = .send [0x10]) ∧
      (s.dec.packet.selAdd = true → ∃ hi lo : Byte, e = .send [0x32, hi, lo] ∧
        256 * hi.toNat + lo.toNat = (s.dec.operandA.toNat + s.dec.operandB.toNat) % 65536) ∧
      (s.dec.packet.selDelay = true → e = .sleepReq s.dec.operandD) ∧
      (s.dec.packet.selLog = true → e = .log s.dec.text))

/-! ### Edges -/

/-- 70_reset_and_hazards R210: an edge with `rst` puts RB and DEC at their reset values in every state, whatever the
other inputs; no event, no strobe, no byte got, a put byte lost. Spec's own: D5. -/
def Obligations.ResetEdgeAbandonsEverything : Prop :=
  ∀ s : State, s.input.rst = true →
    ∃ t, step s = .next t ∧ t.rb = State.reset.rb ∧ t.dec = State.reset.dec ∧ t.trace = s.trace ∧ t.got = none ∧
      t.out.strobes = .none

/-- 70_reset_and_hazards R214, 43_top_cycle R163: an edge with `clr` empties the queue and leaves the storage; in AH
and AP DEC holds and nothing is emitted; in EX and DW DEC does and emits what it does at the same edge without `clr`.
Spec's own: D6, D9. -/
def Obligations.ClearEdgeLeavesDecoder : Prop :=
  ∀ (s : State) (i : Inputs) (rest : List Inputs), s.ok = true → s.env = i :: rest → i.rst = false → i.clr = true →
    ∃ t, step s = .next t ∧ t.rb.head.val = 0 ∧ t.rb.tail.val = 0 ∧ t.rb.full = false ∧ t.rb.buf = s.rb.buf ∧
      t.got = none ∧
      (s.dec.ds = .ah ∨ s.dec.ds = .ap → t.dec = s.dec ∧ t.trace = s.trace) ∧
      (s.dec.ds = .ex ∨ s.dec.ds = .dw →
        ∃ u, step { s with env := { i with clr := false } :: rest } = .next u ∧ t.dec = u.dec ∧ t.trace = u.trace ∧
          t.out.strobes = u.out.strobes)

/-- 43_top_cycle R170: RB taken alone, of any capacity, does what the last block of R168 says, with `rd_en` an
input, and returns the byte that `rd_data` shows when the GET fires. Spec's own: D3, D7. -/
def Obligations.RingBufferAloneFollowsR170 : Prop :=
  ∀ (c : Nat) (rdEn : Bool) (s : State c),
    ∃ t, rbAloneStepAt rdEn s = .next t ∧ t.rb = clockedRb s.input rdEn s.rb ∧
      t.got = (if fire s.input rdEn s.rb then s.rb.peek else none) ∧
      (s.input.rst = false → t.dec = s.dec) ∧ t.trace = s.trace ∧ t.env = s.env.tail ∧
      t.out.empty = s.rb.isEmpty ∧ t.out.full = s.rb.isFull ∧ t.out.size = s.rb.size ∧ t.out.rdData = s.rb.peek

/-- Inputs that an edge does not look at: `sleep_done` outside DW (70_reset_and_hazards R228), `wr_data` without
`wr_en` (10_state R26), and everything beside `rst` when that is 1 (70_reset_and_hazards R210). Spec's own: D3, D5,
D16. -/
def Obligations.IgnoredInputsHaveNoEffect : Prop :=
  ∀ (s : State) (i : Inputs) (rest : List Inputs), s.env = i :: rest →
    (s.dec.ds ≠ .dw → ∀ v, step { s with env := { i with sleepDone := v } :: rest } = step s) ∧
    (i.wrEn = false → ∀ v, step { s with env := { i with wrData := v } :: rest } = step s) ∧
    (i.rst = true → ∀ j : Inputs, step { s with env := { j with rst := true } :: rest } = step s)

/-! ### Waits -/

/-- 41_frame_decoder R129, 60_exceptions R198: while a Delay waits and the timer does not answer, DEC gets nothing and
emits nothing for any number of edges, whatever the producer and `clr` do; without `clr` the bytes put pile up in RB.
Spec's own: D13, D16; log 1. -/
def Obligations.DelayWaitHoldsTheConsumer : Prop :=
  ∀ (n : Nat) (s : State), s.delayWait = true → (∀ i ∈ s.env.take n, i.rst = false ∧ i.sleepDone = false) →
    ∃ t, observe n s = some (t, [], []) ∧ t.dec = s.dec ∧ t.trace = s.trace ∧
      ((∀ i ∈ s.env.take n, i.clr = false) → t.rb = (putBytes (s.env.take n)).foldl Rb.put s.rb)

/-- 60_exceptions R198: a consumer blocked on an empty queue stays as it is for any number of edges without a put,
whatever `clr` and `sleep_done` do. Spec's own: D7; log 1. -/
def Obligations.BlockedGetHolds : Prop :=
  ∀ (n : Nat) (s : State), s.blockedGet = true → (∀ i ∈ s.env.take n, i.rst = false ∧ i.wrEn = false) →
    ∃ t, observe n s = some (t, [], []) ∧ t.dec = s.dec ∧ t.trace = s.trace ∧ t.rb.isEmpty = true ∧
      t.rb.buf = s.rb.buf

/-- 60_exceptions R200: a quiescent state stays as it is and stays quiescent. Spec's own: D24; log 1. -/
def Obligations.QuiescentStaysQuiescent : Prop :=
  ∀ (n : Nat) (s : State), s.quiescent = true →
    ∃ t, observe n s = some (t, [], []) ∧ t.quiescent = true ∧ t.rb = s.rb ∧ t.dec = s.dec ∧ t.trace = s.trace

/-! ### Runs -/

/-- 20_memory R51 (O1), R44: over any run without `rst` and `clr`, the bytes got, followed by the unread bytes, are in order
a part of the bytes unread at the start followed by the bytes put; the unread bytes are the newest of them; and none is
missing when no edge of the run meets the Overflow condition (60_exceptions R181), nor when they are at most `C` in all.
Which byte an edge that overflows loses is OverflowLosesExactlyTheOldestByte. Spec's own: D8; log 1. -/
def Obligations.GotBytesFollowPutOrder : Prop :=
  ∀ (n : Nat) (s : State), s.ok = true → (∀ i ∈ s.env.take n, i.rst = false ∧ i.clr = false) →
    ∃ t got packets, observe n s = some (t, got, packets) ∧
      (got ++ t.rb.contents).Sublist (s.rb.contents ++ putBytes (s.env.take n)) ∧
      t.rb.contents <:+ s.rb.contents ++ putBytes (s.env.take n) ∧
      (neverOverflows n s = true → got ++ t.rb.contents = s.rb.contents ++ putBytes (s.env.take n)) ∧
      ((s.rb.contents ++ putBytes (s.env.take n)).length ≤ 200 →
        got ++ t.rb.contents = s.rb.contents ++ putBytes (s.env.take n))

/-- 41_frame_decoder R131: over any run without `rst` that starts in AH, the packets DEC presents are the parser's
packets of the bytes got, and the events are the packets' events in order: a first part of them, and all of them when
the run ends in AH. Spec's own: R131, marked derived; log 1. -/
def Obligations.PacketsAndEventsFollowTheParser : Prop :=
  ∀ (n : Nat) (s : State), s.ok = true → s.dec.ds = .ah → (∀ i ∈ s.env.take n, i.rst = false) →
    ∃ t got packets events, observe n s = some (t, got, packets) ∧ packets = parse got ∧
      t.trace = s.trace ++ events ∧ events <+: (parse got).flatMap packetEvents ∧
      (t.dec.ds = .ah → events = (parse got).flatMap packetEvents)

/-- 40_ringbuffer_ops R101, 10_state R21, R29: what a run shows does not depend on slot numbers or stale storage: two
states with the same unread bytes, the same decoder and the same inputs to come get the same bytes, present the same
packets, emit the same events and show the same ports for ever. Spec's own: D12 and R101, marked derived. -/
def Obligations.ObservationDependsOnContentsOnly : Prop :=
  ∀ (n : Nat) (s1 s2 : State), s1.ok = true → s2.ok = true →
    s1.rb.contents = s2.rb.contents → s1.dec = s2.dec → s1.env = s2.env →
    ∃ t1 t2 got packets events,
      observe n s1 = some (t1, got, packets) ∧ observe n s2 = some (t2, got, packets) ∧
      t1.trace = s1.trace ++ events ∧ t2.trace = s2.trace ++ events ∧
      t1.rb.contents = t2.rb.contents ∧ t1.dec = t2.dec ∧ (0 < n → t1.out = t2.out)

/-- 43_top_cycle R169 with 42_command_dispatch R142 to R146: a frame at the front of the queue, awaited in AH and not
disturbed, is got byte by byte and answered on the schedule: ECHO in 2 edges, ADD in 6, LOG of `L` bytes in `L + 2`,
an unassigned header in 1, DELAY to its request in 5; the bytes behind it stay unread. Spec's own: D13. -/
def Obligations.FramesAreAnsweredOnSchedule : Prop :=
  ∀ (f : Frame) (s : State) (rest : List Byte) (edges : Nat) (events : List Event) (last : DecState),
    f.wf = true → s.ok = true → s.dec.ds = .ah → s.rb.contents = encodeFrame f ++ rest →
    (∀ i ∈ s.env.take edges, i.quiet = true) →
    (match f with
      | .echo _ => edges = 2 ∧ events = [.send [0x10]] ∧ last = .ah
      | .add _ a b => edges = 6 ∧ events = [.send [0x32, highByte (a + b), lowByte (a + b)]] ∧ last = .ah
      | .delay _ d _ => edges = 5 ∧ events = [.sleepReq d] ∧ last = .dw
      | .log text => edges = text.length + 2 ∧ events = [.log text] ∧ last = .ah
      | .unknown _ _ => edges = 1 ∧ events = [] ∧ last = .ah) →
    ∃ t, observe edges s = some (t, encodeFrame f, framePackets f) ∧ t.trace = s.trace ++ events ∧
      t.rb.contents = rest ∧ t.dec.ds = last

/-- 60_exceptions R181: at an edge without `rst` and `clr` a byte is lost exactly when the Overflow condition is met,
and it is the oldest unread byte; else every byte is got or unread. Spec's own: D8, D19. -/
def Obligations.OverflowLosesExactlyTheOldestByte : Prop :=
  ∀ s : State, s.ok = true → s.input.rst = false → s.input.clr = false →
    ∃ t, step s = .next t ∧
      (Condition.overflow ∈ s.conditions →
        t.got = none ∧ s.rb.contents.length = 200 ∧ t.rb.contents = s.rb.contents.drop 1 ++ [s.input.wrData]) ∧
      (Condition.overflow ∉ s.conditions →
        t.got.toList ++ t.rb.contents = s.rb.contents ++ (if s.input.wrEn then [s.input.wrData] else []))

/-! ### Encodings -/

/-- Decoding the bytes of a well-formed frame, whatever follows them, gives the frame back with every operand
(30_encoding R60 to R67). Spec's own: D15. -/
def Obligations.FrameDecodesFromItsBytes : Prop :=
  ∀ (f : Frame) (rest : List Byte), f.wf = true → decodeFrame (encodeFrame f ++ rest) = .ok (f, rest)

/-- The parser of 41_frame_decoder R131 reads the bytes of a well-formed frame as that frame's packet and goes on with
what follows. Spec's own: R131, marked derived. -/
def Obligations.ParserReadsEncodedFrames : Prop :=
  ∀ (f : Frame) (rest : List Byte), f.wf = true → parse (encodeFrame f ++ rest) = framePackets f ++ parse rest

/-- Decode and encode agree on instructions: every selectable instruction is decoded from its word, and every header
byte is the word of what it decodes to (30_encoding R69, R74). Spec's own: D9; log 18. -/
def Obligations.InstructionDecodesFromItsWord : Prop :=
  (∀ (i : Instr) (e : Encoded), encode i = some e → decode e = i) ∧
  (∀ i : Instr, i.selectable = true ↔ ∃ e, encode i = some e) ∧
  (∀ h : Byte, encode (decodeHeader h) = some (.hdr h))

/-- 30_encoding R69, R74: a header byte agrees with the row of the command it decodes to and with no other command's
row; so does a control word. Spec's own: D9. -/
def Obligations.OpcodeRowsPartitionTheWords : Prop :=
  (∀ h : Byte, (decodeHeader h).format = .hdr ∧
    ∀ i : Instr, i.format = .hdr → (h.toNat &&& i.row.mask = i.row.value ↔ i.row = (decodeHeader h).row)) ∧
  (∀ (w : Nibble) (data : Byte), (decodeCtl w data).format = .ctl ∧
    ∀ i : Instr, i.format = .ctl → (w.toNat &&& i.row.mask = i.row.value ↔ i.row = (decodeCtl w data).row))

/-- Words written out bit by bit from 30_encoding R61, R62, R74 decode to what they stand for. Spec's own: D9. -/
def Obligations.WrittenOutWordsDecode : Prop :=
  decodeHeader 0b00011111 = .echo 0b1111 ∧ decodeHeader 0b00100100 = .add 0b0100 ∧
  decodeHeader 0b01000011 = .delay 0b0011 ∧ decodeHeader 0b01100101 = .log 0b0101 ∧
  decodeHeader 0b00110100 = .unknown3 0b0100 ∧ decodeHeader 0b10010000 = .unknown9 0b0000 ∧
  decodeCtl 0b1010 0 = .init false true false ∧ decodeCtl 0b0101 0 = .reset false true ∧
  decodeCtl 0b0000 0 = .nop ∧ decodeCtl 0b0001 0 = .get ∧ decodeCtl 0b0010 0x44 = .put 0x44 ∧
  decodeCtl 0b0011 0x44 = .putGet 0x44

/-- 30_encoding R76: a well-formed line assembles to bytes that begin a frame; an ill-formed one is refused. That a
quoted text is its ASCII bytes is the model's presumption (log 15). Spec's own: D21; log 15. -/
def Obligations.AssemblerAcceptsWellFormedLines : Prop :=
  ∀ line : Line,
    (line.wf = true → ∃ bytes, assemble line = .ok bytes ∧
      match line with
      | .echo => decodeFrame bytes = .ok (.echo 0, [])
      | .add a b => decodeFrame bytes = .ok (.add 4 a b, [])
      | .delay d e => decodeFrame bytes = .ok (.delay 3 d e, [])
      | .logText cs => decodeFrame bytes = .ok (.log (cs.map fun c => BitVec.ofNat 8 c.toNat), [])
      | .logBytes bs => decodeFrame bytes = .ok (.log bs, [])
      | .byte v => bytes = [v]
      | .unknown t => decodeFrame bytes = .ok (.unknown t 0, [])) ∧
    (line.wf = false → ∃ why, assemble line = .error why)

/-! ### Every capacity -/

/-- 00_scope R1, 92 D4: the machine with its capacity as an argument, taken at 200, is this hardware: the same instructions,
the same step, the same machine for the host. Spec's own: D4. -/
def Obligations.HardwareIsTheMachineOfCapacity200 : Prop :=
  (∀ (i : Instr) (s : State), exec i s = execAt i s) ∧ (∀ s : State, step s = stepAt s) ∧
  (∀ h : 1 ≤ 200, Sys2Proof.core = machineAt 200 h)

/-- 43_top_cycle R168 with 00_scope R1: for every capacity the step of the block, a function of the inputs and the block's
state alone (10_state R31), is the one that R168 writes out. It refuses what `clockedStep` leaves out, by name, which is the
model's choice and not R168's (93 U6 and log 8, as in StepIsRuleR168). Spec's own: D4, D13. The model's own: log 8. -/
def Obligations.BlockStepIsRuleR168ForEveryCapacity : Prop :=
  ∀ (c : Nat) (inp : Inputs) (b : Block c),
    match clockedStep inp b.rb b.dec with
    | some (r, d, events) =>
      blockStep inp b = .next
        ({ rb := r, dec := d },
         { got := if fire inp b.dec.rdEn b.rb then some (b.rb.buf.read b.rb.tail) else none
           out :=
            { empty := b.rb.isEmpty, full := b.rb.full, size := b.rb.size, rdData := b.rb.peek
              strobes := (events.map Event.strobes).getLastD .none }
           events := events })
    | none => blockStep inp b = .refused (if b.dec.ds = .ex then .executeOfUnknownType else .payloadBeyondNeed)

/-- 10_state R31: the event trace, the ports, the byte got and the inputs to come are no state of RBCMD. For every capacity a
step is the block's step on the next inputs and a record of what it answered; nothing recorded before reaches it. The
model's own: log 1, log 2. -/
def Obligations.StepIsTheBlockStepAndItsRecord : Prop :=
  ∀ (c : Nat) (s : State c),
    stepAt s =
      match blockStep s.input s.toBlock with
      | .next (b, o) => .next { toBlock := b, got := o.got, out := o.out, trace := s.trace ++ o.events, env := s.env.tail }
      | .fault r => .fault r
      | .refused r => .refused r

/-- 10_state R14, 60_exceptions R180 with 00_scope R1: for every capacity the reset state meets the invariant, and every step
from a state that meets it answers a next state that meets it. Spec's own: D4, D12, D13; the choice of invariant is the
model's. -/
def Obligations.EveryCapacityStepsAndKeepsTheInvariant : Prop :=
  (∀ (c : Nat) (hc : 0 < c), (State.resetAt c hc).ok = true) ∧
  (∀ (c : Nat) (s : State c), s.ok = true → ∃ t, stepAt s = .next t ∧ t.ok = true)
end

