-- ==== Sys2Proof/Laws/Decode.lean ====
section
/-! SUPPORT. The header byte's two fields, and the equations of the parser as 41_frame_decoder R131 writes them. -/

namespace Sys2Proof

/-- A header byte is its two fields put together (30_encoding R61). -/
theorem header_of_fields (h : Byte) : header (headerType h) (headerLen h) = h := by revert h; decide

@[simp] theorem headerType_header (t l : Nibble) : headerType (header t l) = t := by revert t l; decide

@[simp] theorem headerLen_header (t l : Nibble) : headerLen (header t l) = l := by revert t l; decide

/-- More fuel than there are bytes changes nothing. -/
theorem parseAtMost_of_le {bytes : List Byte} {fuel : Nat} (h : bytes.length ≤ fuel) :
    parseAtMost fuel bytes = parse bytes := by
  suffices key : ∀ (n : Nat) (bytes : List Byte) (fuel : Nat), bytes.length ≤ n → bytes.length ≤ fuel →
      parseAtMost fuel bytes = parseAtMost bytes.length bytes from key _ bytes fuel le_rfl h
  intro n
  induction n with
  | zero =>
    intro bytes fuel hn _
    obtain rfl : bytes = [] := List.length_eq_zero_iff.1 (Nat.le_zero.1 hn)
    cases fuel <;> rfl
  | succ n ih =>
    intro bytes fuel hn hf
    match bytes, fuel with
    | [], 0 | [], _ + 1 => rfl
    | _ :: _, 0 => simp at hf
    | b :: bytes, fuel + 1 =>
      simp only [List.length_cons, Nat.add_le_add_iff_right] at hn hf
      simp only [List.length_cons, parseAtMost]
      split
      · split
        · rfl
        · rw [ih _ fuel (by simp; omega) (by simp; omega), ih _ bytes.length (by simp; omega) (by simp)]
      · exact ih _ fuel hn hf

@[simp] theorem parse_nil : parse [] = [] := rfl

/-- The parser's step on one header (41_frame_decoder R131). -/
theorem parse_header (h : Byte) (rest : List Byte) :
    parse (h :: rest) =
      (let t := headerType h
       let l := headerLen h
       let n := (plen t l).toNat
       if knownType t then (if rest.length < n then [] else ⟨t, l, rest.take n⟩ :: parse (rest.drop n)) else parse rest) := by
  rw [parse, List.length_cons, parseAtMost]
  simp only []
  rw [parseAtMost_of_le (by simp), parseAtMost_of_le le_rfl]

end Sys2Proof
end

