-- ==== Sys2Proof/Laws/Memory.lean ====
section
/-! SUPPORT. The laws of the storage: what a write leaves to read, and the canonical form that every operation keeps. -/

namespace Sys2Proof.Machine

@[simp] theorem Memory.read_nil (i : Nat) : Memory.read [] i = 0 := rfl

theorem Memory.wf_cons {c a : Nat} {v : Byte} {m : Memory} :
    Memory.wf c ((a, v) :: m) = true ↔ a < c ∧ v ≠ 0 ∧ (∀ cell ∈ m, a < cell.1) ∧ Memory.wf c m = true := by
  simp [Memory.wf, Memory.unlisted, and_assoc]

/-- A slot below every listed one reads as unlisted. -/
theorem Memory.read_of_below {m : Memory} {i : Nat} (h : ∀ cell ∈ m, i < cell.1) : m.read i = 0 := by
  induction m with
  | nil => rfl
  | cons cell m ih =>
    have hi := h cell (by simp)
    rw [Memory.read, if_neg (by omega)]
    exact ih fun x hx => h x (by simp [hx])

/-- What a write leaves to read: the byte in its slot, every other slot as before. -/
theorem Memory.read_write {c : Nat} {m : Memory} (h : m.wf c = true) (i j : Nat) (b : Byte) :
    (m.write i b).read j = if j = i then b else m.read j := by
  induction m with
  | nil =>
    by_cases hb : b = 0#8
    · simp [Memory.write, Memory.unlisted, hb]
    · by_cases hji : j = i
      · subst hji
        simp [Memory.write, Memory.unlisted, hb, Memory.read]
      · simp [Memory.write, Memory.unlisted, hb, Memory.read, hji, Ne.symm hji]
  | cons cell m ih =>
    obtain ⟨a, v⟩ := cell
    obtain ⟨_, hv, hlt, hm⟩ := Memory.wf_cons.1 h
    have hbelow : ∀ k, k ≤ a → Memory.read m k = 0 := fun k hk =>
      Memory.read_of_below fun x hx => lt_of_le_of_lt hk (hlt x hx)
    rcases Nat.lt_trichotomy i a with hia | rfl | hia
    · by_cases hb : b = 0#8
      · have hwrite : Memory.write ((a, v) :: m) i b = (a, v) :: m := by
          simp [Memory.write, Memory.unlisted, hia, hb]
        rw [hwrite]
        by_cases hji : j = i
        · subst hji
          rw [if_pos rfl, hb, Memory.read, if_neg (by omega), hbelow j (by omega)]
          rfl
        · rw [if_neg hji]
      · have hwrite : Memory.write ((a, v) :: m) i b = (i, b) :: (a, v) :: m := by
          simp [Memory.write, Memory.unlisted, hia, hb]
        rw [hwrite, Memory.read]
        simp only [eq_comm]
    · by_cases hb : b = 0#8
      · have hwrite : Memory.write ((i, v) :: m) i b = m := by
          simp [Memory.write, Memory.unlisted, hb]
        rw [hwrite]
        by_cases hji : j = i
        · subst hji
          rw [if_pos rfl, hb, hbelow j le_rfl]
          rfl
        · rw [if_neg hji, Memory.read, if_neg (Ne.symm hji)]
      · have hwrite : Memory.write ((i, v) :: m) i b = (i, b) :: m := by
          simp [Memory.write, Memory.unlisted, hb]
        rw [hwrite]
        by_cases hji : j = i
        · subst hji
          simp [Memory.read]
        · simp [Memory.read, hji, Ne.symm hji]
    · have hwrite : Memory.write ((a, v) :: m) i b = (a, v) :: Memory.write m i b := by
        simp [Memory.write, show ¬ i < a by omega, show i ≠ a by omega]
      rw [hwrite, Memory.read, Memory.read, ih hm]
      by_cases hja : a = j
      · subst hja
        simp [show a ≠ i by omega]
      · simp [hja]

theorem Memory.read_write_same {c : Nat} {m : Memory} (h : m.wf c = true) (i : Nat) (b : Byte) :
    (m.write i b).read i = b := by simp [Memory.read_write h]

theorem Memory.read_write_other {c : Nat} {m : Memory} (h : m.wf c = true) {i j : Nat} (b : Byte) (hne : j ≠ i) :
    (m.write i b).read j = m.read j := by simp [Memory.read_write h, hne]

/-- A write lists no slot but its own beside those listed before. -/
theorem Memory.mem_write {m : Memory} {i : Nat} {b : Byte} {cell : Host.Cell} (h : cell ∈ m.write i b) :
    cell = (i, b) ∨ cell ∈ m := by
  induction m with
  | nil =>
    simp only [Memory.write] at h
    split at h <;> simp_all
  | cons x m ih =>
    obtain ⟨a, v⟩ := x
    simp only [Memory.write] at h
    split_ifs at h <;> simp only [List.mem_cons] at h ⊢ <;> tauto

/-- A write keeps the canonical form. -/
theorem Memory.write_wf {c : Nat} {m : Memory} (h : m.wf c = true) {i : Nat} (hi : i < c) (b : Byte) :
    (m.write i b).wf c = true := by
  induction m with
  | nil =>
    by_cases hb : b = 0#8
    · simp [Memory.write, Memory.unlisted, hb, Memory.wf]
    · simp [Memory.write, Memory.unlisted, hb, Memory.wf, hi]
  | cons cell m ih =>
    obtain ⟨a, v⟩ := cell
    obtain ⟨ha, hv, hlt, hm⟩ := Memory.wf_cons.1 h
    rcases Nat.lt_trichotomy i a with hia | rfl | hia
    · by_cases hb : b = 0#8
      · simpa [Memory.write, Memory.unlisted, hia, hb] using h
      · have hwrite : Memory.write ((a, v) :: m) i b = (i, b) :: (a, v) :: m := by
          simp [Memory.write, Memory.unlisted, hia, hb]
        rw [hwrite]
        refine Memory.wf_cons.2 ⟨hi, hb, ?_, h⟩
        intro x hx
        rcases List.mem_cons.1 hx with rfl | hx
        · exact hia
        · exact hia.trans (hlt x hx)
    · by_cases hb : b = 0#8
      · simpa [Memory.write, Memory.unlisted, hb] using hm
      · have hwrite : Memory.write ((i, v) :: m) i b = (i, b) :: m := by
          simp [Memory.write, Memory.unlisted, hb]
        rw [hwrite]
        exact Memory.wf_cons.2 ⟨hi, hb, hlt, hm⟩
    · have hwrite : Memory.write ((a, v) :: m) i b = (a, v) :: Memory.write m i b := by
        simp [Memory.write, show ¬ i < a by omega, show i ≠ a by omega]
      rw [hwrite]
      refine Memory.wf_cons.2 ⟨ha, hv, ?_, ih hm⟩
      intro x hx
      rcases Memory.mem_write hx with rfl | hx
      · exact hia
      · exact hlt x hx

/-- Two storages of canonical form that read alike are equal. -/
theorem Memory.eq_of_read_eq {c : Nat} {m n : Memory} (hm : m.wf c = true) (hn : n.wf c = true)
    (h : ∀ i, m.read i = n.read i) : m = n := by
  induction m generalizing n with
  | nil =>
    cases n with
    | nil => rfl
    | cons y n =>
      obtain ⟨b, w⟩ := y
      have := h b
      simp [Memory.read] at this
      exact absurd this.symm (Memory.wf_cons.1 hn).2.1
  | cons x m ih =>
    obtain ⟨a, v⟩ := x
    obtain ⟨_, hv, hlt, hm'⟩ := Memory.wf_cons.1 hm
    cases n with
    | nil =>
      have := h a
      simp [Memory.read] at this
      exact absurd this hv
    | cons y n =>
      obtain ⟨b, w⟩ := y
      obtain ⟨_, hw, hlt', hn'⟩ := Memory.wf_cons.1 hn
      have hab : a = b := by
        rcases Nat.lt_trichotomy a b with hlt2 | heq | hgt
        · have := h a
          rw [Memory.read, if_pos rfl, Memory.read, if_neg (by omega),
            Memory.read_of_below fun z hz => hlt2.trans (hlt' z hz)] at this
          exact absurd this hv
        · exact heq
        · have := h b
          rw [Memory.read, if_neg (by omega), Memory.read_of_below fun z hz => hgt.trans (hlt z hz),
            Memory.read, if_pos rfl] at this
          exact absurd this.symm hw
      subst hab
      have hvw : v = w := by simpa [Memory.read] using h a
      subst hvw
      congr 1
      refine ih hm' hn' fun i => ?_
      by_cases hi : a = i
      · subst hi
        rw [Memory.read_of_below hlt, Memory.read_of_below hlt']
      · simpa [Memory.read, hi] using h i

end Sys2Proof.Machine
end

