-- ==== Sys2Proof/Laws/Ring.lean ====
section
/-! SUPPORT. What each operation of the ring buffer does to its fields, and that none breaks the storage's form. -/

namespace Sys2Proof.Machine

variable {c : Nat} (r : Rb c) (b : Byte)

@[simp] theorem nextIdx_val (x : Fin c) : (nextIdx x).val = (x.val + 1) % c := rfl

/-- An index steps to the next slot, from the last slot to slot 0. -/
theorem nextIdx_cases (x : Fin c) :
    (x.val = c - 1 ∧ (nextIdx x).val = 0) ∨ (x.val < c - 1 ∧ (nextIdx x).val = x.val + 1) := by
  have hx := x.isLt
  rcases Nat.lt_or_ge x.val (c - 1) with h | h
  · exact .inr ⟨h, by rw [nextIdx_val, Nat.mod_eq_of_lt (by omega)]⟩
  · have hc : x.val + 1 = c := by omega
    exact .inl ⟨by omega, by rw [nextIdx_val, hc, Nat.mod_self]⟩

@[simp] theorem init_buf : r.init.buf = [] := rfl
@[simp] theorem init_head : r.init.head.val = 0 := rfl
@[simp] theorem init_tail : r.init.tail.val = 0 := rfl
@[simp] theorem init_full : r.init.full = false := rfl

@[simp] theorem clear_buf : r.clear.buf = r.buf := rfl
@[simp] theorem clear_head : r.clear.head.val = 0 := rfl
@[simp] theorem clear_tail : r.clear.tail.val = 0 := rfl
@[simp] theorem clear_full : r.clear.full = false := rfl

@[simp] theorem put_buf : (r.put b).buf = r.buf.write r.head b := rfl
@[simp] theorem put_head : (r.put b).head = nextIdx r.head := rfl
@[simp] theorem put_tail : (r.put b).tail = if r.full then nextIdx r.tail else r.tail := rfl
theorem put_full : (r.put b).full = decide ((r.put b).head = (r.put b).tail) := rfl

@[simp] theorem advance_buf : r.advance.buf = r.buf := rfl
@[simp] theorem advance_head : r.advance.head = r.head := rfl
@[simp] theorem advance_tail : r.advance.tail = nextIdx r.tail := rfl
@[simp] theorem advance_full : r.advance.full = false := rfl

theorem rbIsEmpty_iff : r.isEmpty = true ↔ r.full = false ∧ r.head = r.tail := by simp [Rb.isEmpty]

theorem peek_of_empty (h : r.isEmpty = true) : r.peek = none := by simp [Rb.peek, h]

theorem peek_of_not_empty (h : r.isEmpty = false) : r.peek = some (r.buf.read r.tail) := by simp [Rb.peek, h]

/-- A GET on an empty queue does not fire (40_ringbuffer_ops R97). -/
theorem get_of_empty (h : r.isEmpty = true) : r.get = (none, r) := by simp [Rb.get, peek_of_empty r h]

/-- A GET on a queue that is not empty fires (40_ringbuffer_ops R97). -/
theorem get_of_not_empty (h : r.isEmpty = false) : r.get = (some (r.buf.read r.tail), r.advance) := by
  simp [Rb.get, peek_of_not_empty r h]

/-- No operation of the ring buffer breaks the storage's form. -/
theorem init_buf_wf : r.init.buf.wf c = true := rfl

theorem clear_buf_wf (h : r.buf.wf c = true) : r.clear.buf.wf c = true := h

theorem put_buf_wf (h : r.buf.wf c = true) : (r.put b).buf.wf c = true := Memory.write_wf h r.head.isLt b

theorem get_buf : r.get.2.buf = r.buf := by
  cases h : r.isEmpty
  · simp [get_of_not_empty r h]
  · simp [get_of_empty r h]

theorem putGet_buf_wf (h : r.buf.wf c = true) : (r.putGet b).2.buf.wf c = true :=
  put_buf_wf _ b (by rw [get_buf]; exact h)

/-- The storage at reset has the form. -/
theorem reset_buf_wf : State.reset.rb.buf.wf Config.capacity = true := rfl

end Sys2Proof.Machine
end

