-- ==== Sys2Proof/Laws/State.lean ====
section
/-! SUPPORT. One lemma for each field and each update of State, and of the decoder's updates, so that no later proof unfolds
a record. -/

namespace Sys2Proof.Machine

variable {c : Nat} (s : State c)

@[simp] theorem setRb_rb (r : Rb c) (g : Option Byte) : (s.setRb r g).rb = r := rfl
@[simp] theorem setRb_dec (r : Rb c) (g : Option Byte) : (s.setRb r g).dec = s.dec := rfl
@[simp] theorem setRb_got (r : Rb c) (g : Option Byte) : (s.setRb r g).got = g := rfl
@[simp] theorem setRb_out (r : Rb c) (g : Option Byte) : (s.setRb r g).out = s.out := rfl
@[simp] theorem setRb_trace (r : Rb c) (g : Option Byte) : (s.setRb r g).trace = s.trace := rfl
@[simp] theorem setRb_env (r : Rb c) (g : Option Byte) : (s.setRb r g).env = s.env := rfl
@[simp] theorem setRb_input (r : Rb c) (g : Option Byte) : (s.setRb r g).input = s.input := rfl

@[simp] theorem setDec_rb (d : Dec) : (s.setDec d).rb = s.rb := rfl
@[simp] theorem setDec_dec (d : Dec) : (s.setDec d).dec = d := rfl
@[simp] theorem setDec_got (d : Dec) : (s.setDec d).got = s.got := rfl
@[simp] theorem setDec_out (d : Dec) : (s.setDec d).out = s.out := rfl
@[simp] theorem setDec_trace (d : Dec) : (s.setDec d).trace = s.trace := rfl
@[simp] theorem setDec_env (d : Dec) : (s.setDec d).env = s.env := rfl
@[simp] theorem setDec_input (d : Dec) : (s.setDec d).input = s.input := rfl

@[simp] theorem setOut_rb (p : Ports) : (s.setOut p).rb = s.rb := rfl
@[simp] theorem setOut_dec (p : Ports) : (s.setOut p).dec = s.dec := rfl
@[simp] theorem setOut_got (p : Ports) : (s.setOut p).got = s.got := rfl
@[simp] theorem setOut_out (p : Ports) : (s.setOut p).out = p := rfl
@[simp] theorem setOut_trace (p : Ports) : (s.setOut p).trace = s.trace := rfl
@[simp] theorem setOut_env (p : Ports) : (s.setOut p).env = s.env := rfl
@[simp] theorem setOut_input (p : Ports) : (s.setOut p).input = s.input := rfl

@[simp] theorem emit_rb (e : Event) : (s.emit e).rb = s.rb := rfl
@[simp] theorem emit_dec (e : Event) : (s.emit e).dec = s.dec := rfl
@[simp] theorem emit_got (e : Event) : (s.emit e).got = s.got := rfl
@[simp] theorem emit_out (e : Event) : (s.emit e).out = { s.out with strobes := e.strobes } := rfl
@[simp] theorem emit_trace (e : Event) : (s.emit e).trace = s.trace ++ [e] := rfl
@[simp] theorem emit_env (e : Event) : (s.emit e).env = s.env := rfl
@[simp] theorem emit_input (e : Event) : (s.emit e).input = s.input := rfl

@[simp] theorem returnToAh_rb : (s.returnToAh).rb = s.rb := rfl
@[simp] theorem returnToAh_dec : (s.returnToAh).dec = .cleared := rfl
@[simp] theorem returnToAh_got : (s.returnToAh).got = s.got := rfl
@[simp] theorem returnToAh_out : (s.returnToAh).out = s.out := rfl
@[simp] theorem returnToAh_trace : (s.returnToAh).trace = s.trace := rfl
@[simp] theorem returnToAh_env : (s.returnToAh).env = s.env := rfl
@[simp] theorem returnToAh_input : (s.returnToAh).input = s.input := rfl

@[simp] theorem beginCycle_rb : (s.beginCycle).rb = s.rb := rfl
@[simp] theorem beginCycle_dec : (s.beginCycle).dec = s.dec := rfl
@[simp] theorem beginCycle_got : (s.beginCycle).got = s.got := rfl
@[simp] theorem beginCycle_out : (s.beginCycle).out = { s.out with strobes := .none } := rfl
@[simp] theorem beginCycle_trace : (s.beginCycle).trace = s.trace := rfl
@[simp] theorem beginCycle_env : (s.beginCycle).env = s.env := rfl
@[simp] theorem beginCycle_input : (s.beginCycle).input = s.input := rfl

@[simp] theorem endCycle_rb : (s.endCycle).rb = s.rb := rfl
@[simp] theorem endCycle_dec : (s.endCycle).dec = s.dec := rfl
@[simp] theorem endCycle_got : (s.endCycle).got = s.got := rfl
@[simp] theorem endCycle_out : (s.endCycle).out = s.out := rfl
@[simp] theorem endCycle_trace : (s.endCycle).trace = s.trace := rfl
@[simp] theorem endCycle_env : (s.endCycle).env = s.env.tail := rfl

@[simp] theorem setRb_self : s.setRb s.rb s.got = s := rfl
@[simp] theorem setDec_self : s.setDec s.dec = s := rfl
@[simp] theorem setOut_self : s.setOut s.out = s := rfl
@[simp] theorem setDec_setDec (d d' : Dec) : (s.setDec d).setDec d' = s.setDec d' := rfl
@[simp] theorem setOut_setOut (p p' : Ports) : (s.setOut p).setOut p' = s.setOut p' := rfl
@[simp] theorem setRb_setRb (r r' : Rb c) (g g' : Option Byte) : (s.setRb r g).setRb r' g' = s.setRb r' g' := rfl

/-- Two states are equal when their fields are. -/
theorem State.eq_of_fields {s t : State c} (h1 : s.rb = t.rb) (h2 : s.dec = t.dec) (h3 : s.got = t.got) (h4 : s.out = t.out)
    (h5 : s.trace = t.trace) (h6 : s.env = t.env) : s = t := by
  cases s with | mk b => cases t with | mk b' => cases b; cases b'; simp_all

variable (d : Dec) (t l : Nibble) (b : Byte)

@[simp] theorem dispatch_ds : (d.dispatch t l).ds = if plen t l = 0 then .ex else .ap := rfl
@[simp] theorem dispatch_typ : (d.dispatch t l).typ = t := rfl
@[simp] theorem dispatch_len : (d.dispatch t l).len = l := rfl
@[simp] theorem dispatch_need : (d.dispatch t l).need = plen t l := rfl
@[simp] theorem dispatch_idx : (d.dispatch t l).idx = 0 := rfl
@[simp] theorem dispatch_pl : (d.dispatch t l).pl = d.pl := rfl

@[simp] theorem collect_ds : (d.collect b).ds = if d.idx + 1 = d.need then .ex else d.ds := rfl
@[simp] theorem collect_typ : (d.collect b).typ = d.typ := rfl
@[simp] theorem collect_len : (d.collect b).len = d.len := rfl
@[simp] theorem collect_need : (d.collect b).need = d.need := rfl
@[simp] theorem collect_idx : (d.collect b).idx = d.idx + 1 := rfl
@[simp] theorem collect_pl : (d.collect b).pl = d.pl.setIfInBounds d.idx.toNat b := rfl

end Sys2Proof.Machine
end

