-- ==== Sys2Proof/Laws/Exec.lean ====
section
/-! SUPPORT. What the shared operations of the meanings can do, said once: the sequencing, the consumer step, the status
outputs. -/

namespace Sys2Proof.Machine

variable {c : Nat}

@[simp] theorem andThen_next (s : State c) (f : State c → Result c) : andThen (.next s) f = f s := rfl

@[simp] theorem andThen_refused (r : Refusal) (f : State c → Result c) :
    andThen (.refused r) f = .refused r := rfl

/-- Two operations in turn answer a next state when both do. -/
theorem andThen_eq_next {o : Result c} {f : State c → Result c} {u : State c} :
    andThen o f = .next u ↔ ∃ t, o = .next t ∧ f t = .next u := by
  cases o with
  | next s => simp [andThen]
  | fault r => cases r
  | refused r => simp [andThen]

/-- The byte that arrives in AP, or the hold (41_frame_decoder R124). -/
theorem collectStep_eq_next {s t : State c} :
    collectStep s = .next t ↔
      (s.got = none ∧ t = s) ∨ (∃ b, s.got = some b ∧ s.dec.idx < s.dec.need ∧ t = s.setDec (s.dec.collect b)) := by
  unfold collectStep
  cases h : s.got with
  | none => simpa using eq_comm
  | some b =>
    by_cases hlt : s.dec.idx < s.dec.need
    · simpa [hlt] using eq_comm
    · simp [hlt]

/-- The Delay wait goes on or ends (42_command_dispatch R144). -/
theorem delayWaitStep_eq_next {s t : State c} :
    delayWaitStep s = .next t ↔
      (s.input.sleepDone = false ∧ t = s) ∨
      (s.input.sleepDone = true ∧ t = (s.emit (.send [0x51, s.dec.operandEcho])).returnToAh) := by
  unfold delayWaitStep
  cases h : s.input.sleepDone <;> simpa using eq_comm

/-- What one consumer step of a known command can do. -/
theorem commandStep_eq_next {t l : Nibble} {handler : State c → State c} {s s' : State c} :
    commandStep t l handler s = .next s' ↔
      (s.dec.ds = .ah ∧ s' = s.setDec (s.dec.dispatch t l)) ∨ (s.dec.ds = .ap ∧ collectStep s = .next s') ∨
      (s.dec.ds = .ex ∧ s' = handler s) ∨ (s.dec.ds = .dw ∧ delayWaitStep s = .next s') := by
  unfold commandStep
  cases h : s.dec.ds <;> simp <;> exact eq_comm

/-- What one consumer step of an unassigned command can do. -/
theorem unknownStep_eq_next {s s' : State c} :
    unknownStep s = .next s' ↔
      (s.dec.ds = .ah ∧ s' = s) ∨ (s.dec.ds = .ap ∧ collectStep s = .next s') ∨
      (s.dec.ds = .dw ∧ delayWaitStep s = .next s') := by
  unfold unknownStep
  cases h : s.dec.ds
  · simpa using eq_comm
  all_goals simp

/-- The four queries put on their ports what they compute from the ring buffer. -/
theorem driveStatus_eq (s : State c) :
    driveStatus execAt s = .next (s.setOut
      { empty := s.rb.isEmpty, full := s.rb.isFull, size := s.rb.size, rdData := s.rb.peek, strobes := s.out.strobes }) :=
  rfl

/-- A step is RB's part of the edge and then the consumer's. -/
theorem stepAt_eq (s : State c) :
    stepAt s = andThen (rbEdge execAt s.dec.rdEn s) fun t => andThen (consumerEdge execAt t) fun u => .next u.endCycle :=
  rfl

/-- The same of this hardware's step. -/
theorem step_eq (s : State) :
    step s = andThen (rbEdge exec s.dec.rdEn s) fun t => andThen (consumerEdge exec t) fun u => .next u.endCycle := rfl

/-- The step of the block is the step from an empty record. -/
theorem blockStep_eq_next {inp : Inputs} {b : Block c} {b' : Block c} {o : Observed} :
    blockStep inp b = .next (b', o) ↔
      ∃ t, stepAt { toBlock := b, got := none, out := .reset, trace := [], env := [inp] } = .next t ∧
        t.toBlock = b' ∧ t.got = o.got ∧ t.out = o.out ∧ t.trace = o.events := by
  unfold blockStep
  cases stepAt { toBlock := b, got := none, out := .reset, trace := [], env := [inp] } with
  | next t => cases o; simp
  | fault r => cases r
  | refused r => simp

theorem input_of_cons (s : State c) (i : Inputs) (rest : List Inputs) (h : s.env = i :: rest) : s.input = i := by
  simp [State.input, h]

theorem input_of_nil (s : State c) (h : s.env = []) : s.input = .idle := by simp [State.input, h]

end Sys2Proof.Machine
end

