-- ==== Sys2Proof/Laws/PerInstr.lean ====
section
/-! SUPPORT. Statements about every instruction as syntax, one lemma per constructor. -/

namespace Sys2Proof.Laws

/-- The word that encodes an instruction belongs to the instruction's row of spec/opcode_table.json: it agrees with the
row's match on the bits of the row's mask (30_encoding R69, R74). -/
def TableRow.Statement (i : Instr) : Prop := ∀ e, encode i = some e → e.bits &&& i.row.mask = i.row.value

/-- The header words of one type code agree with the row of that code. -/
theorem header_in_row (t l : Nibble) : (header t l).toNat &&& 0xF0 = 16 * t.toNat := by
  revert t l; decide

theorem TableRow.init (clr wrEn rdEn : Bool) : TableRow.Statement (.init clr wrEn rdEn) := by
  intro e h; cases h; revert clr wrEn rdEn; decide

theorem TableRow.reset (wrEn rdEn : Bool) : TableRow.Statement (.reset wrEn rdEn) := by
  intro e h; cases h; revert wrEn rdEn; decide

theorem TableRow.nop : TableRow.Statement .nop := by
  intro e h; cases h; rfl

theorem TableRow.get : TableRow.Statement .get := by
  intro e h; cases h; rfl

theorem TableRow.put (data : Byte) : TableRow.Statement (.put data) := by
  intro e h; cases h; simp [Encoded.bits, Instr.row]

theorem TableRow.putGet (data : Byte) : TableRow.Statement (.putGet data) := by
  intro e h; cases h; simp [Encoded.bits, Instr.row]

theorem TableRow.isEmpty : TableRow.Statement .isEmpty := by
  intro e h; cases h

theorem TableRow.isFull : TableRow.Statement .isFull := by
  intro e h; cases h

theorem TableRow.size : TableRow.Statement .size := by
  intro e h; cases h

theorem TableRow.peek : TableRow.Statement .peek := by
  intro e h; cases h

theorem TableRow.unknown0 (len : Nibble) : TableRow.Statement (.unknown0 len) := by
  intro e h; cases h; exact header_in_row 0 len

theorem TableRow.echo (len : Nibble) : TableRow.Statement (.echo len) := by
  intro e h; cases h; exact header_in_row 1 len

theorem TableRow.add (len : Nibble) : TableRow.Statement (.add len) := by
  intro e h; cases h; exact header_in_row 2 len

theorem TableRow.unknown3 (len : Nibble) : TableRow.Statement (.unknown3 len) := by
  intro e h; cases h; exact header_in_row 3 len

theorem TableRow.delay (len : Nibble) : TableRow.Statement (.delay len) := by
  intro e h; cases h; exact header_in_row 4 len

theorem TableRow.unknown5 (len : Nibble) : TableRow.Statement (.unknown5 len) := by
  intro e h; cases h; exact header_in_row 5 len

theorem TableRow.log (len : Nibble) : TableRow.Statement (.log len) := by
  intro e h; cases h; exact header_in_row 6 len

theorem TableRow.unknown7 (len : Nibble) : TableRow.Statement (.unknown7 len) := by
  intro e h; cases h; exact header_in_row 7 len

theorem TableRow.unknown8 (len : Nibble) : TableRow.Statement (.unknown8 len) := by
  intro e h; cases h; exact header_in_row 8 len

theorem TableRow.unknown9 (len : Nibble) : TableRow.Statement (.unknown9 len) := by
  intro e h; cases h; exact header_in_row 9 len

theorem TableRow.unknown10 (len : Nibble) : TableRow.Statement (.unknown10 len) := by
  intro e h; cases h; exact header_in_row 10 len

theorem TableRow.unknown11 (len : Nibble) : TableRow.Statement (.unknown11 len) := by
  intro e h; cases h; exact header_in_row 11 len

theorem TableRow.unknown12 (len : Nibble) : TableRow.Statement (.unknown12 len) := by
  intro e h; cases h; exact header_in_row 12 len

theorem TableRow.unknown13 (len : Nibble) : TableRow.Statement (.unknown13 len) := by
  intro e h; cases h; exact header_in_row 13 len

theorem TableRow.unknown14 (len : Nibble) : TableRow.Statement (.unknown14 len) := by
  intro e h; cases h; exact header_in_row 14 len

theorem TableRow.unknown15 (len : Nibble) : TableRow.Statement (.unknown15 len) := by
  intro e h; cases h; exact header_in_row 15 len

end Sys2Proof.Laws
end

