-- ==== Sys2Proof/Tests/Slice0.lean ====
section
/-! SUPPORT. Tests of the model and a concrete state for the hypotheses of every statement. Expected values are those of
spec/95_test_vectors.md, named at each test, or are worked out by hand from the rule that is named. -/

namespace Sys2Proof.Tests

open Sys2Proof.Machine

/-! ### Helpers -/

/-- Payload registers holding `bs`, the rest 0. -/
def regs (bs : List Byte) : Vector Byte Config.payloadRegs := Vector.ofFn fun i => bs.getD i.val 0

/-- A decoder with these registers. -/
def dec (ds : DecState) (typ len need idx : Nibble) (bs : List Byte) : Dec :=
  { ds := ds, typ := typ, len := len, need := need, idx := idx, pl := regs bs }

/-- The reset ring buffer of this hardware after these bytes were put. -/
def queue (bs : List Byte) : Rb Config.capacity := bs.foldl Rb.put State.reset.rb

/-- A full queue of this hardware: 0x11 in slot 0, 0x00 in the others, slot 0 the oldest. -/
def fullQueue : Rb Config.capacity := { State.reset.rb with buf := [(0, 0x11)], full := true }

/-- 199 unread bytes, one less than the capacity: head 4, tail 5. -/
def almostFull : Rb Config.capacity :=
  { State.reset.rb with head := ⟨4, by decide⟩, tail := ⟨5, by decide⟩ }

/-- A machine with this decoder, ring buffer and inputs to come. -/
def machine (d : Dec) (r : Rb Config.capacity) (env : List Inputs) : State :=
  { State.reset with dec := d, rb := r, env := env }

/-- An edge with a put. -/
def putting (b : Byte) : Inputs := { Inputs.idle with wrEn := true, wrData := b }

/-- An edge with `sleep_done`. -/
def sleepDone : Inputs := { Inputs.idle with sleepDone := true }

/-- An edge with `clr`. -/
def clearing : Inputs := { Inputs.idle with clr := true }

/-- An edge with `rst`. -/
def resetting : Inputs := { Inputs.idle with rst := true }

/-- A ring buffer of capacity 4, as the vectors of section 2 use. -/
abbrev four (buf : Memory) (head tail : Fin 4) (full : Bool) : Rb 4 := ⟨buf, head, tail, full⟩

/-- A machine of any capacity with this decoder, ring buffer and inputs to come. -/
def machineOf {c : Nat} (d : Dec) (r : Rb c) (env : List Inputs) : State c :=
  { rb := r, dec := d, got := none, out := .reset, trace := [], env := env }

/-- The block's state and the events after one edge, if there is a next state. -/
def afterBlock {c : Nat} : Host.Outcome (Block c × Observed) Fault Refusal → Option (Block c × List Event)
  | .next (b, o) => some (b, o.events)
  | .fault _ => none
  | .refused _ => none

/-- DEC with an ECHO to execute. -/
def echoEx : Dec := dec .ex 1 0 0 0 []

/-- DEC with an ADD to execute. -/
def addEx (bs : List Byte) : Dec := dec .ex 2 4 4 4 bs

/-- DEC with a DELAY to execute (vector S6). -/
def delayEx : Dec := dec .ex 4 3 3 3 [0x00, 0x64, 0xAB]

/-- DEC in the wait of that DELAY. -/
def delayDw : Dec := dec .dw 4 3 3 3 [0x00, 0x64, 0xAB]

/-- DEC with a LOG to execute (vector S7). -/
def logEx : Dec := dec .ex 6 5 5 5 [0x68, 0x65, 0x6C, 0x6C, 0x6F]

/-- DEC in the middle of an ADD (T-DEC-4). -/
def addAp : Dec := dec .ap 2 4 4 2 [0x00, 0x03]

/-- DEC before the last byte of an ADD. -/
def addApLast : Dec := dec .ap 2 4 4 3 [0x00, 0x03, 0x00]

/-- The next state that an outcome has. -/
def done : Host.Outcome State Fault Refusal → Option State
  | .next t => some t
  | .fault _ => none
  | .refused _ => none

/-- The refusal that an outcome has. -/
def refusal : Host.Outcome State Fault Refusal → Option Refusal
  | .next _ => none
  | .fault _ => none
  | .refused r => some r

/-- The decoder and the events that an outcome has, if it is a next state. -/
def after : Host.Outcome State Fault Refusal → Option (Dec × List Event)
  | .next t => some (t.dec, t.trace)
  | .fault _ => none
  | .refused _ => none

/-- The ring buffer and the byte got that an outcome has, if it is a next state. -/
def afterRing : Host.Outcome State Fault Refusal → Option (Rb Config.capacity × Option Byte)
  | .next t => some (t.rb, t.got)
  | .fault _ => none
  | .refused _ => none

/-! ### Well-formedness: each check refuses an ill-formed term -/

theorem test_wf_log_of_16_bytes_refused : (Frame.log (List.replicate 16 0x41)).wf = false := by decide
theorem test_wf_log_of_15_bytes : (Frame.log (List.replicate 15 0x41)).wf = true := by decide
theorem test_wf_unknown_frame_of_assigned_type_refused :
    (Frame.unknown 1 0).wf = false ∧ (Frame.unknown 2 0).wf = false ∧ (Frame.unknown 4 0).wf = false ∧
    (Frame.unknown 6 0).wf = false ∧ (Frame.unknown 9 0).wf = true := by decide
theorem test_wf_packet_of_wrong_length_refused :
    Packet.wf ⟨1, 0, [0x00]⟩ = false ∧ Packet.wf ⟨2, 4, [1, 2, 3]⟩ = false ∧ Packet.wf ⟨4, 3, [1, 2]⟩ = false ∧
    Packet.wf ⟨6, 5, [1]⟩ = false ∧ Packet.wf ⟨9, 0, []⟩ = false ∧ Packet.wf ⟨6, 1, [1]⟩ = true := by decide
theorem test_wf_line_log_bytes_too_long_refused : (Line.logBytes (List.replicate 16 0)).wf = false := by decide
theorem test_wf_line_log_text_too_long_refused : (Line.logText (List.replicate 16 'a')).wf = false := by decide
theorem test_wf_line_log_text_not_ascii_refused : (Line.logText ['é']).wf = false := by decide
theorem test_wf_line_unknown_assigned_refused :
    (Line.unknown 1).wf = false ∧ (Line.unknown 2).wf = false ∧ (Line.unknown 4).wf = false ∧
    (Line.unknown 6).wf = false := by decide
theorem test_wf_capacity_0_refused : capacityWf 0 = false ∧ capacityWf 1 = true ∧ capacityWf 200 = true := by decide
theorem test_wf_queries_not_selectable :
    Instr.isEmpty.selectable = false ∧ Instr.isFull.selectable = false ∧ Instr.size.selectable = false ∧
    Instr.peek.selectable = false := by decide

/-! ### Decoding: words written out from 30_encoding R61, R62, R73, R74, in the opcode table's order -/

theorem test_decode_ctl_rows :
    decodeCtl 0b1101 0 = .init true false true ∧ decodeCtl 0b0110 0 = .reset true false ∧ decodeCtl 0b0000 0 = .nop ∧
    decodeCtl 0b0001 0 = .get ∧ decodeCtl 0b0010 0xA5 = .put 0xA5 ∧ decodeCtl 0b0011 0x5A = .putGet 0x5A := by decide
theorem test_decode_hdr_rows_low :
    decodeHeader 0b00000101 = .unknown0 5 ∧ decodeHeader 0b00011111 = .echo 15 ∧ decodeHeader 0b00100100 = .add 4 ∧
    decodeHeader 0b00110100 = .unknown3 4 ∧ decodeHeader 0b01000011 = .delay 3 ∧ decodeHeader 0b01010001 = .unknown5 1 ∧
    decodeHeader 0b01100101 = .log 5 ∧ decodeHeader 0b01111000 = .unknown7 8 := by decide
theorem test_decode_hdr_rows_high :
    decodeHeader 0b10000010 = .unknown8 2 ∧ decodeHeader 0b10010000 = .unknown9 0 ∧
    decodeHeader 0b10100101 = .unknown10 5 ∧ decodeHeader 0b10110110 = .unknown11 6 ∧
    decodeHeader 0b11000111 = .unknown12 7 ∧ decodeHeader 0b11011001 = .unknown13 9 ∧
    decodeHeader 0b11101010 = .unknown14 10 ∧ decodeHeader 0b11111011 = .unknown15 11 := by decide
theorem test_queries_have_no_word :
    encode .isEmpty = none ∧ encode .isFull = none ∧ encode .size = none ∧ encode .peek = none := by decide
theorem test_decode_table_words :
    decodeTableWord 8 0x24 = some (.add 4) ∧ decodeTableWord 8 0x3 = some (.putGet 0) ∧
    decodeTableWord 8 0xC = some (.init true false false) ∧ decodeTableWord 0 0 = none := by decide
/-- Vectors S4, S6 and S7 as frames, with a byte after them. -/
theorem test_decode_frames :
    decodeFrame [0x24, 0x00, 0x03, 0x00, 0x04, 0x10] = .ok (.add 4 3 4, [0x10]) ∧
    decodeFrame [0x43, 0x00, 0x64, 0xAB] = .ok (.delay 3 100 0xAB, []) ∧
    decodeFrame [0x65, 0x68, 0x65, 0x6C, 0x6C, 0x6F] = .ok (.log [0x68, 0x65, 0x6C, 0x6C, 0x6F], []) ∧
    decodeFrame [0x90, 0x10] = .ok (.unknown 9 0, [0x10]) ∧ decodeFrame [0x1F] = .ok (.echo 15, []) := by decide
theorem test_decode_frame_refuses_by_name :
    decodeFrame [] = .error .noHeader ∧ decodeFrame [0x24, 0x00, 0x03] = .error .truncated ∧
    decodeFrame [0x40, 0x00, 0x03] = .error .truncated ∧ decodeFrame [0x62, 0x00] = .error .truncated := by decide
/-- T-DEC-9 and T-DEC-4. -/
theorem test_parse :
    parse [0x34, 0x00, 0x64, 0xAB, 0x10, 0x10, 0x10, 0x10] = [⟨6, 4, [0xAB, 0x10, 0x10, 0x10]⟩, ⟨1, 0, []⟩] ∧
    parse [0x24, 0x00, 0x03] = [] := by decide
/-- The programs of section 7: lines of P1 and P3. -/
theorem test_assemble :
    assemble (.add 3 4) = .ok [0x24, 0x00, 0x03, 0x00, 0x04] ∧
    assemble (.delay 1 0xEE) = .ok [0x43, 0x00, 0x01, 0xEE] ∧
    assemble (.logText ['h', 'e', 'l', 'l', 'o']) = .ok [0x65, 0x68, 0x65, 0x6C, 0x6C, 0x6F] ∧
    assemble (.unknown 4) = .error .assignedType := by decide

/-! ### Storage -/

theorem test_storage_reads_back :
    Memory.read (Memory.write [(1, 0x22), (3, 0x44)] 2 0x33) 2 = 0x33 ∧
    Memory.write [(1, 0x22), (3, 0x44)] 3 0x00 = [(1, 0x22)] ∧ Memory.wf 4 [(3, 0x44), (1, 0x22)] = false ∧
    Memory.wf 4 [(1, 0x00)] = false ∧ Memory.wf 4 [(4, 0x01)] = false := by decide

/-! ### Port operations and queries -/

/-- T-RST-1 and T-CYC-4: `rst` with a put in the middle of a frame. -/
theorem test_init :
    done (exec (.init false true true) (machine addAp (queue [0x24, 0xAA, 0xBB]) [])) = some State.reset := by decide
/-- T-RB-2. -/
theorem test_reset :
    (four [(0, 0x55), (1, 0x66), (2, 0x33), (3, 0x44)] 2 2 true).clear =
      four [(0, 0x55), (1, 0x66), (2, 0x33), (3, 0x44)] 0 0 false := by decide
/-- T-CYC-1, edge 3: `clr` leaves DEC as it is. -/
theorem test_reset_keeps_decoder :
    after (exec (.reset false true) (machine addAp (queue [0x03]) [])) = some (addAp, []) := by decide
theorem test_nop :
    done (exec .nop (machine addAp (queue [0x24]) [])) = some (machine addAp (queue [0x24]) []) := by decide
/-- T-RB-1, rows 7 and 13. -/
theorem test_get_vectors :
    (four [(0, 0x55), (1, 0x66), (2, 0x33), (3, 0x44)] 2 2 true).get =
      (some 0x33, four [(0, 0x55), (1, 0x66), (2, 0x33), (3, 0x44)] 2 3 false) ∧
    (four [(0, 0x55), (1, 0x66), (2, 0x77), (3, 0x44)] 3 3 false).get =
      (none, four [(0, 0x55), (1, 0x66), (2, 0x77), (3, 0x44)] 3 3 false) := by decide
theorem test_get : afterRing (exec .get (machine .cleared (queue [0x11]) [])) =
    some (⟨[(0, 0x11)], ⟨1, by decide⟩, ⟨1, by decide⟩, false⟩, some 0x11) := by decide
/-- T-RB-1, rows 4 and 5. -/
theorem test_put_vectors :
    (four [(0, 0x11), (1, 0x22), (2, 0x33)] 3 0 false).put 0x44 =
      four [(0, 0x11), (1, 0x22), (2, 0x33), (3, 0x44)] 0 0 true ∧
    (four [(0, 0x11), (1, 0x22), (2, 0x33), (3, 0x44)] 0 0 true).put 0x55 =
      four [(0, 0x55), (1, 0x22), (2, 0x33), (3, 0x44)] 1 1 true := by decide
theorem test_put : afterRing (exec (.put 0x24) State.reset) =
    some (⟨[(0, 0x24)], ⟨1, by decide⟩, ⟨0, by decide⟩, false⟩, none) := by decide
/-- T-RB-6, rows 1 and 3. -/
theorem test_put_get_vectors :
    (four [] 0 0 false).putGet 0x10 = (none, four [(0, 0x10)] 1 0 false) ∧
    (four [(0, 0x90), (1, 0x90), (2, 0x90), (3, 0x90)] 0 0 true).putGet 0x10 =
      (some 0x90, four [(0, 0x10), (1, 0x90), (2, 0x90), (3, 0x90)] 1 1 true) := by decide
theorem test_put_get : afterRing (exec (.putGet 0x33) (machine .cleared (queue [0x11, 0x22]) [])) =
    some (⟨[(0, 0x11), (1, 0x22), (2, 0x33)], ⟨3, by decide⟩, ⟨1, by decide⟩, false⟩, some 0x11) := by decide
/-- T-RB-4: a queue of one byte. -/
theorem test_put_capacity_1 :
    (⟨[(0, 0xAA)], 0, 0, true⟩ : Rb 1).put 0xBB = ⟨[(0, 0xBB)], 0, 0, true⟩ ∧
    (⟨[(0, 0xBB)], 0, 0, true⟩ : Rb 1).get = (some 0xBB, ⟨[(0, 0xBB)], 0, 0, false⟩) := by decide
theorem test_is_empty : done (exec .isEmpty (machine .cleared fullQueue [])) =
    some { machine .cleared fullQueue [] with out := { Ports.reset with empty := false } } := by decide
theorem test_is_full : done (exec .isFull (machine .cleared fullQueue [])) =
    some { machine .cleared fullQueue [] with out := { Ports.reset with full := true } } := by decide
/-- T-RB-7. -/
theorem test_size_vectors :
    (four [] 0 0 false).size = 0 ∧ (four [] 0 0 true).size = 4 ∧ (four [] 3 0 false).size = 3 ∧
    (four [] 0 3 false).size = 1 ∧ (four [] 2 3 false).size = 3 ∧ (four [] 1 1 true).size = 4 ∧
    (four [] 1 1 false).size = 0 ∧ (four [] 0 1 false).size = 3 := by decide
theorem test_size : done (exec .size (machine .cleared almostFull [])) =
    some { machine .cleared almostFull [] with out := { Ports.reset with size := 199 } } := by decide
/-- T-RB-8. -/
theorem test_peek_vectors :
    (four [(0, 0x55), (1, 0x66), (2, 0x33), (3, 0x44)] 2 2 true).peek = some 0x33 ∧
    (four [(0, 0x55), (1, 0x66), (2, 0x77), (3, 0x44)] 3 3 false).peek = none := by decide
theorem test_peek : done (exec .peek (machine .cleared fullQueue [])) =
    some { machine .cleared fullQueue [] with out := { Ports.reset with rdData := some 0x11 } } := by decide

/-! ### Wire commands -/

/-- T-DEC-2: the length nibble of an ECHO is kept and ignored. -/
theorem test_echo_dispatch : after (exec (.echo 15) State.reset) = some (dec .ex 1 15 0 0 [], []) := by decide
theorem test_echo_execute : after (exec (.echo 0) (machine echoEx State.reset.rb [])) =
    some (.cleared, [.send [0x10]]) := by decide
/-- T-DEC-3: an ADD takes four bytes whatever its length nibble. -/
theorem test_add_dispatch : after (exec (.add 0) State.reset) = some (dec .ap 2 0 4 0 [], []) := by decide
/-- Section 4: 0xABCD + 0x1234, with a carry between the bytes. -/
theorem test_add_execute : after (exec (.add 4) (machine (addEx [0xAB, 0xCD, 0x12, 0x34]) State.reset.rb [])) =
    some (.cleared, [.send [0x32, 0xBE, 0x01]]) := by decide
/-- S6 corrected. -/
theorem test_delay_execute : after (exec (.delay 3) (machine delayEx State.reset.rb [])) =
    some (delayDw, [.sleepReq 100]) := by decide
theorem test_delay_answer : after (exec (.delay 3) (machine delayDw State.reset.rb [sleepDone])) =
    some (.cleared, [.send [0x51, 0xAB]]) := by decide
/-- T-DEC-5: a LOG of length 0 goes straight to Execute. -/
theorem test_log_dispatch_0 : after (exec (.log 0) State.reset) = some (dec .ex 6 0 0 0 [], []) := by decide
/-- S7. -/
theorem test_log_execute : after (exec (.log 5) (machine logEx State.reset.rb [])) =
    some (.cleared, [.log [0x68, 0x65, 0x6C, 0x6C, 0x6F]]) := by decide
/-- T-DEC-7 with the nibbles of section 4: an unassigned header does nothing. -/
theorem test_unknown_headers :
    done (exec (.unknown0 15) State.reset) = some State.reset ∧ done (exec (.unknown3 2) State.reset) = some State.reset ∧
    done (exec (.unknown5 1) State.reset) = some State.reset ∧ done (exec (.unknown7 15) State.reset) = some State.reset ∧
    done (exec (.unknown8 0) State.reset) = some State.reset ∧ done (exec (.unknown9 0) State.reset) = some State.reset ∧
    done (exec (.unknown10 5) State.reset) = some State.reset ∧ done (exec (.unknown11 0) State.reset) = some State.reset ∧
    done (exec (.unknown12 0) State.reset) = some State.reset ∧ done (exec (.unknown13 0) State.reset) = some State.reset ∧
    done (exec (.unknown14 0) State.reset) = some State.reset ∧ done (exec (.unknown15 15) State.reset) = some State.reset := by decide
/-- 30_encoding R75: the strobes of the three kinds of event. -/
theorem test_strobes :
    (Event.send [0x51, 0xAB]).strobes =
      { Strobes.none with sendValid := true, sendLen := 2, sendB0 := 0x51, sendB1 := 0xAB } ∧
    (Event.sleepReq 0x0100).strobes = { Strobes.none with sleepReq := true, sleepMs := 256 } ∧
    (Event.log [0x68, 0x65]).strobes = { Strobes.none with logValid := true, logLen := 2, logB := regs [0x68, 0x65] } := by
  decide

/-! ### Edges -/

/-- T-CYC-1, edges 6 and 8: a payload byte of an ADD, and the last one. -/
theorem test_edge_collects :
    after (step (machine addAp (queue [0x04]) [putting 0x10])) = some (dec .ap 2 4 4 3 [0x00, 0x03, 0x04], []) ∧
    after (step (machine addApLast (queue [0x04]) [])) = some (dec .ex 2 4 4 4 [0x00, 0x03, 0x00, 0x04], []) := by decide
/-- T-CYC-2, edge 1: `clr` with a put. -/
theorem test_edge_clear_with_put :
    afterRing (step (machine .cleared (queue [0x10]) [{ clearing with wrEn := true, wrData := 0x10 }])) =
      some (⟨[(0, 0x10)], ⟨0, by decide⟩, ⟨0, by decide⟩, false⟩, none) := by decide
/-- T-CYC-3, edge 5: `sleep_done` in the Execute cycle is not seen. -/
theorem test_edge_early_sleep_done :
    after (step (machine delayEx State.reset.rb [sleepDone])) = some (delayDw, [.sleepReq 100]) := by decide
/-- T-CYC-5 and T-CYC-6: `rst` in the Execute cycle suppresses the event, `clr` does not. -/
theorem test_edge_execute_with_rst_and_clr :
    after (step (machine echoEx State.reset.rb [resetting])) = some (.cleared, []) ∧
    after (step (machine echoEx State.reset.rb [clearing])) = some (.cleared, [.send [0x10]]) := by decide
/-- Program P3, edges 8 and 12, `C = 4`: an overflow during a Delay, and the Delay's end. -/
theorem test_block_capacity_4 :
    (let d := dec .dw 4 3 3 3 [0x00, 0x01, 0xEE]
     afterBlock (blockStep (putting 0xCD)
       ⟨four [(0, 0x24), (1, 0x12), (2, 0x34), (3, 0x0F)] 0 0 true, d⟩) =
         some (⟨four [(0, 0xCD), (1, 0x12), (2, 0x34), (3, 0x0F)] 1 1 true, d⟩, []) ∧
     afterBlock (blockStep sleepDone ⟨four [(0, 0xCD), (1, 0x10), (2, 0x34), (3, 0x0F)] 2 2 true, d⟩) =
       some (⟨four [(0, 0xCD), (1, 0x10), (2, 0x34), (3, 0x0F)] 2 2 true, .cleared⟩, [.send [0x51, 0xEE]])) := by decide
/-- T-CYC-7, edge 4, `C = 1`: a put into a full queue at the edge that gets its byte. -/
theorem test_block_capacity_1 :
    afterBlock (blockStep (putting 0x00) ⟨(⟨[(0, 0x24)], 0, 0, true⟩ : Rb 1), .cleared⟩) =
      some (⟨⟨[], 0, 0, true⟩, dec .ap 2 4 4 0 []⟩, []) := by decide
/-- An opcode-table word placed for the fetch runs: ADD's header, and PUT_GET's control word. -/
theorem test_with_fetch_word :
    after (step (State.reset.withFetchWord 8 0x24)) = some (dec .ap 2 4 4 0 [], []) ∧
    afterRing (step (State.reset.withFetchWord 8 0x3)) =
      some (⟨[], ⟨1, by decide⟩, ⟨0, by decide⟩, false⟩, none) := by decide

/-! ### A state for the hypotheses of each statement, one for every clause that has its own -/

/-- A decoder state in the middle of the longest frame, one byte short (T-DEC-6). -/
def logApLast : Dec :=
  dec .ap 6 15 15 14 [0x41, 0x42, 0x43, 0x44, 0x45, 0x46, 0x47, 0x48, 0x49, 0x4A, 0x4B, 0x4C, 0x4D, 0x4E]

/-- The longest LOG in Execute (T-DEC-6). -/
def logExFull : Dec :=
  dec .ex 6 15 15 15
    [0x41, 0x42, 0x43, 0x44, 0x45, 0x46, 0x47, 0x48, 0x49, 0x4A, 0x4B, 0x4C, 0x4D, 0x4E, 0x4F]

/-- An edge whose outcome is a next state, as a fact about the step. -/
theorem next_of_done {o : Host.Outcome State Fault Refusal} (h : (done o).isSome = true) : ∃ t, o = .next t := by
  cases o with
  | next t => exact ⟨t, rfl⟩
  | fault r => cases h
  | refused r => cases h

theorem test_hyp_StepKeepsTheInvariant :
    (machine addAp (queue [0x04]) [putting 0x10]).ok = true ∧
    ∃ t, step (machine addAp (queue [0x04]) [putting 0x10]) = .next t :=
  ⟨by decide, next_of_done (by decide)⟩
theorem test_hyp_OkStatesAlwaysStep : (machine delayDw fullQueue [putting 0x10]).ok = true := by decide
/-- Both branches: a state that R168 and the model step from, and the four kinds of state that the model refuses (93 U6:
Execute of type 9, a payload byte with `need` 0 and with `idx` above `need`; log 8: with `idx = need`). -/
theorem test_hyp_StepIsRuleR168 :
    (clockedStep .idle (queue [0x04]) addAp).isSome = true ∧
    [dec .ex 9 0 0 0 [], dec .ap 2 4 0 0 [], dec .ap 2 4 3 4 [], dec .ap 2 4 4 4 []].all (fun d =>
      (clockedStep .idle (queue [0x04]) d).isNone && (refusal (step (machine d (queue [0x04]) []))).isSome) = true := by
  decide
theorem test_hyp_StrobesFollowR165AndR166 :
    (machine logExFull fullQueue []).ok = true ∧ (machine logExFull fullQueue []).dec.ds = .ex := by decide
theorem test_hyp_StepRunsTheDecodedInstruction :
    (machine addAp State.reset.rb [resetting]).input.rst = true ∧
    (let s := machine .cleared (queue [0x24]) [putting 0x10]
     s.input.rst = false ∧ s.dec.ds = .ah ∧ s.input.clr = false ∧ s.rb.isEmpty = false) ∧
    (let s := machine .cleared (queue [0x24]) [clearing]
     s.input.rst = false ∧ s.dec.ds = .ah ∧ s.input.clr = true) ∧
    (let s := machine .cleared (queue []) [putting 0x10]
     s.input.rst = false ∧ s.dec.ds = .ah ∧ s.rb.isEmpty = true) ∧
    (let s := machine addAp (queue [0x24]) []
     s.input.rst = false ∧ s.dec.ds ≠ .ah) := by decide
theorem test_hyp_PutStoresAndDropsOldest :
    almostFull.ok = true ∧ almostFull.size = 199 ∧ fullQueue.ok = true ∧ fullQueue.size = 200 := by decide
theorem test_hyp_GetReturnsTheOldestByte :
    fullQueue.ok = true ∧ fullQueue.isEmpty = false ∧ (queue [0x11]).ok = true ∧ (queue [0x11]).isEmpty = false := by decide
theorem test_hyp_GetOnEmptyHolds : State.reset.rb.isEmpty = true := by decide
theorem test_hyp_PutGetGetsFirst :
    State.reset.rb.ok = true ∧ State.reset.rb.isEmpty = true ∧ fullQueue.ok = true ∧ fullQueue.isEmpty = false := by decide
theorem test_hyp_QueriesShowTheQueue :
    fullQueue.ok = true ∧ almostFull.ok = true ∧ almostFull.head < almostFull.tail ∧ State.reset.rb.ok = true := by decide
theorem test_hyp_HeaderDispatchSetsTheRegisters :
    State.reset.dec.ds = .ah ∧ Instr.unknown0 15 ∈ unknownInstrs 15 ∧ Instr.unknown15 0 ∈ unknownInstrs 0 := by decide
theorem test_hyp_HeaderIsDispatchedAtTheEdgeThatGetsIt :
    [(0x1F, 1, 15), (0x20, 2, 0), (0x43, 4, 3), (0x60, 6, 0), (0x6F, 6, 15), (0x90, 9, 0)].all
      (fun ((h, t, l) : Byte × Nibble × Nibble) =>
        let s := machine .cleared (queue [h]) [putting 0x10]
        s.ok && s.dec.ds == .ah && !s.input.rst && !s.input.clr && !s.rb.isEmpty &&
          h == s.rb.buf.read s.rb.tail.val && h.toNat == 16 * t.toNat + l.toNat) = true := by decide
theorem test_hyp_EchoAnswersItsMarker : (machine echoEx State.reset.rb []).dec.ds = .ex := by decide
theorem test_hyp_AddAnswersTheSumModulo65536 :
    (machine (addEx [0xFF, 0xFF, 0x00, 0x01]) State.reset.rb []).dec.ds = .ex := by decide
theorem test_hyp_DelayAsksForItsSleep : (machine delayEx State.reset.rb []).dec.ds = .ex := by decide
theorem test_hyp_DelayHoldsUntilTheTimerAnswers :
    (machine delayDw State.reset.rb []).dec.ds = .dw ∧ (machine delayDw State.reset.rb []).input.sleepDone = false ∧
    (machine delayDw State.reset.rb [sleepDone]).input.sleepDone = true := by decide
theorem test_hyp_LogHandsOverItsPayload :
    logExFull.ok = true ∧ logExFull.ds = .ex ∧ logExFull.typ = 6 ∧ (dec .ex 6 0 0 0 []).ok = true := by decide
theorem test_hyp_UnknownHeadersChangeNothing : State.reset.dec.ds = .ah := by decide
theorem test_hyp_PayloadByteIsCollectedOrAwaited :
    (Instr.add 4).format = .hdr ∧ (machine addAp State.reset.rb []).dec.ds = .ap ∧
    (machine addAp State.reset.rb []).got = none ∧
    (let s := { machine addAp State.reset.rb [] with got := some 0x04 }
     s.got = some 0x04 ∧ s.dec.idx < s.dec.need ∧ s.dec.idx.toNat + 1 ≠ s.dec.need.toNat) ∧
    (let s := { machine logApLast State.reset.rb [] with got := some 0x4F }
     s.got = some 0x4F ∧ s.dec.idx < s.dec.need ∧ s.dec.idx.toNat + 1 = s.dec.need.toNat) := by decide
theorem test_hyp_ReturnToAwaitHeaderClearsDecoder :
    (Instr.delay 3).format = .hdr ∧ (machine delayDw fullQueue [sleepDone]).dec.ds ≠ .ah ∧
    ∃ t, exec (.delay 3) (machine delayDw fullQueue [sleepDone]) = .next t ∧ t.dec.ds = .ah :=
  ⟨rfl, by decide, _, rfl, rfl⟩
theorem test_hyp_CommandsTouchOnlyDecoderAndEvents :
    (Instr.log 5).format = .hdr ∧ ∃ t, exec (.log 5) (machine logEx fullQueue []) = .next t :=
  ⟨rfl, _, rfl⟩
theorem test_hyp_PortOperationsTouchOnlyTheRingBuffer :
    (Instr.put 0x24).format = .ctl ∧ fullQueue.buf.wf 200 = true ∧ (∀ c w r, Instr.put 0x24 ≠ .init c w r) ∧
    Instr.nop.format = .ctl ∧ (∀ c w r, Instr.nop ≠ .init c w r) ∧ (∀ b, Instr.nop ≠ .put b ∧ Instr.nop ≠ .putGet b) := by
  simp [Instr.format]; decide
theorem test_hyp_UnassignedExecuteAndSurplusPayloadAreRefused :
    Instr.unknown9 0 ∈ unknownInstrs 0 ∧ (machine echoEx State.reset.rb []).dec.ds = .ex ∧
    (let s := { machine (dec .ap 2 4 4 4 []) State.reset.rb [] with got := some 0x04 }
     (Instr.add 4).format = .hdr ∧ s.dec.ds = .ap ∧ s.got = some 0x04 ∧ ¬ s.dec.idx < s.dec.need) := by decide
theorem test_hyp_RingOperationsKeepTheInvariants :
    fullQueue.invariants ∧ almostFull.invariants ∧ (exec .nop State.reset = .next State.reset) :=
  ⟨⟨by decide, by decide, by decide, by decide, by decide⟩, ⟨by decide, by decide, by decide, by decide, by decide⟩, rfl⟩
/-- Two queues of the same bytes in other slots. -/
theorem test_hyp_RingBufferIsAQueueOfItsContents :
    (four [(0, 0x11), (1, 0x22)] 2 0 false).ok = true ∧ (four [(0, 0x22), (3, 0x11)] 1 3 false).ok = true ∧
    (four [(0, 0x11), (1, 0x22)] 2 0 false).contents = (four [(0, 0x22), (3, 0x11)] 1 3 false).contents ∧
    (four [(0, 0x11), (1, 0x22)] 2 0 false).isEmpty = false ∧ (four [] 2 2 true).ok = true := by decide
/-- S1 and S2 with `C = 4`: as many bytes as fit, and three more. -/
theorem test_hyp_FifoRoundTripAndOverflow :
    (four [(0, 0x55)] 2 2 false).ok = true ∧ (four [(0, 0x55)] 2 2 false).contents = [] ∧
    [0x11, 0x22, 0x33, 0x44].length ≤ 4 ∧ 4 ≤ [0x11, 0x22, 0x33, 0x44].length ∧ 4 ≤ [1, 2, 3, 4, 5, 6, 7].length := by decide
theorem test_hyp_SizeAgreesWithFlags :
    (four [] 1 1 false).ok = true ∧ (four [] 1 1 true).ok = true ∧ (four [] 0 3 false).ok = true := by decide
theorem test_hyp_IndicesAndSizesFitTheirWidths : fullQueue.ok = true ∧ (⟨[], 0, 0, true⟩ : Rb 1).ok = true := by decide
/-- One state for each select, and one in which none is true. -/
theorem test_hyp_PacketIsRoutedToOneHandler :
    (let s := machine echoEx fullQueue []
     s.ok = true ∧ s.input.rst = false ∧ s.dec.packet.valid = true ∧ s.dec.packet.selEcho = true) ∧
    (let s := machine (addEx [0xFF, 0xFF, 0x00, 0x01]) fullQueue []
     s.ok = true ∧ s.input.rst = false ∧ s.dec.packet.valid = true ∧ s.dec.packet.selAdd = true) ∧
    (let s := machine delayEx fullQueue []
     s.ok = true ∧ s.input.rst = false ∧ s.dec.packet.valid = true ∧ s.dec.packet.selDelay = true) ∧
    (let s := machine logExFull fullQueue []
     s.ok = true ∧ s.input.rst = false ∧ s.dec.packet.valid = true ∧ s.dec.packet.selLog = true) ∧
    delayDw.ok = true ∧ delayDw.packet.valid = false := by decide
theorem test_hyp_ResetEdgeAbandonsEverything :
    (machine delayDw fullQueue [{ resetting with wrEn := true }]).input.rst = true := by decide
theorem test_hyp_ClearEdgeLeavesDecoder :
    clearing.rst = false ∧ clearing.clr = true ∧
    [Dec.cleared, addAp, logExFull, delayDw].all (fun d => (machine d fullQueue [clearing]).ok) = true ∧
    Dec.cleared.ds = .ah ∧ addAp.ds = .ap ∧ logExFull.ds = .ex ∧ delayDw.ds = .dw := by decide
theorem test_hyp_RingBufferAloneFollowsR170 : (machine delayDw fullQueue [putting 0x10]).input.rst = false := by decide
theorem test_hyp_IgnoredInputsHaveNoEffect :
    (machine addAp fullQueue [clearing]).env = clearing :: [] ∧ addAp.ds ≠ .dw ∧ clearing.wrEn = false ∧
    (machine addAp fullQueue [resetting]).env = resetting :: [] ∧ resetting.rst = true := by decide
theorem test_hyp_DelayWaitHoldsTheConsumer :
    (let s := machine delayDw fullQueue [putting 0x10, clearing]
     s.delayWait = true ∧ ∀ i ∈ s.env.take 3, i.rst = false ∧ i.sleepDone = false) ∧
    (∀ i ∈ [putting 0x10, putting 0x11], i.clr = false) := by decide
theorem test_hyp_BlockedGetHolds :
    let s := machine addAp State.reset.rb [clearing, sleepDone]
    s.blockedGet = true ∧ ∀ i ∈ s.env.take 3, i.rst = false ∧ i.wrEn = false := by decide
theorem test_hyp_QuiescentStaysQuiescent : (machine .cleared (queue []) [.idle]).quiescent = true := by decide
/-- One put into 199 unread bytes, which makes 200 in all; one into 200 that overflows; and one into 200 that does not,
because the GET of the same edge makes room. -/
theorem test_hyp_GotBytesFollowPutOrder :
    (let s := machine delayDw almostFull [putting 0x10]
     s.ok = true ∧ (∀ i ∈ s.env.take 1, i.rst = false ∧ i.clr = false) ∧
     (s.rb.contents ++ putBytes (s.env.take 1)).length = 200) ∧
    (let s := machine delayDw fullQueue [putting 0x10]
     s.ok = true ∧ (∀ i ∈ s.env.take 1, i.rst = false ∧ i.clr = false) ∧ neverOverflows 1 s = false) ∧
    (let s := machine .cleared fullQueue [putting 0x10]
     s.ok = true ∧ (∀ i ∈ s.env.take 1, i.rst = false ∧ i.clr = false) ∧ neverOverflows 1 s = true) :=
  ⟨⟨by decide, by decide, by rw [List.length_append, Rb.contents, List.length_map, List.length_range]; decide⟩,
    by decide, by decide⟩
theorem test_hyp_PacketsAndEventsFollowTheParser :
    let s := machine .cleared (queue [0x34, 0x00, 0x64, 0xAB, 0x10]) [clearing, putting 0x10]
    s.ok = true ∧ s.dec.ds = .ah ∧ ∀ i ∈ s.env.take 2, i.rst = false := by decide
/-- The same unread bytes in other slots, over other stale bytes. -/
theorem test_hyp_ObservationDependsOnContentsOnly :
    let s1 := machine addAp (queue [0x00, 0x04]) [putting 0x10]
    let s2 := machine addAp ((queue [0x77]).get.2.put 0x00 |>.put 0x04) [putting 0x10]
    s1.ok = true ∧ s2.ok = true ∧ s1.rb.contents = s2.rb.contents ∧ s1.rb ≠ s2.rb ∧ s1.dec = s2.dec ∧ s1.env = s2.env := by
  decide
theorem test_hyp_FramesAreAnsweredOnSchedule :
    [Frame.echo 15, .add 4 0xFFFF 1, .delay 3 100 0xAB, .log [], .log [0x68, 0x69], .unknown 9 0].all (fun f =>
      let s := machine .cleared (queue (encodeFrame f ++ [0x10])) [sleepDone]
      f.wf && s.ok && s.dec.ds == .ah && s.rb.contents == encodeFrame f ++ [0x10] &&
        (s.env.take 6).all Inputs.quiet) = true := by decide
theorem test_hyp_OverflowLosesExactlyTheOldestByte :
    (let s := machine delayDw fullQueue [putting 0x10]
     s.ok = true ∧ s.input.rst = false ∧ s.input.clr = false ∧ Condition.overflow ∈ s.conditions) ∧
    (let s := machine .cleared fullQueue [putting 0x10]
     s.ok = true ∧ s.input.rst = false ∧ s.input.clr = false ∧ Condition.overflow ∉ s.conditions) := by decide
theorem test_hyp_FrameDecodesFromItsBytes :
    (Frame.log (List.replicate 15 0x41)).wf = true ∧ (Frame.log []).wf = true ∧ (Frame.unknown 15 15).wf = true := by decide
theorem test_hyp_ParserReadsEncodedFrames :
    (Frame.delay 0 0xFFFF 0x00).wf = true ∧ (Frame.unknown 0 15).wf = true := by decide
theorem test_hyp_InstructionDecodesFromItsWord :
    encode (.delay 3) = some (.hdr 0b01000011) ∧ encode (.reset true false) = some (.ctl 0b0110 0) := by decide
theorem test_hyp_OpcodeRowsPartitionTheWords :
    (Instr.unknown15 15).format = .hdr ∧ (Instr.init true true true).format = .ctl := by decide
theorem test_hyp_AssemblerAcceptsWellFormedLines :
    (Line.logText ['h', 'i']).wf = true ∧ (Line.logBytes (List.replicate 15 0)).wf = true ∧ (Line.unknown 9).wf = true ∧
    (Line.logText ['é']).wf = false ∧ (Line.unknown 6).wf = false := by decide
theorem test_hyp_HardwareIsTheMachineOfCapacity200 : 1 ≤ 200 := by decide
theorem test_hyp_EveryCapacityStepsAndKeepsTheInvariant :
    (0 < 1 ∧ 0 < 200) ∧ (machineOf delayDw (four [(0, 0x11)] 0 0 true) [putting 0x10]).ok = true := by decide

end Sys2Proof.Tests
end

section
/-! PROOF. The size of the ring buffer by its flag and indices, and the invariants I1 to I5 of 10_state R14. An index is
below the capacity by its type, so I1, I2, I4 and I5 hold of every ring buffer, and I3 is what an operation has to keep. -/

namespace Sys2Proof.Machine

variable {c : Nat} (r : Rb c) (b : Byte)

theorem size_of_full (h : r.full = true) : r.size = c := by simp [Rb.size, h]

theorem size_of_tail_le_head (h : r.full = false) (hle : r.tail.val ≤ r.head.val) :
    r.size = r.head.val - r.tail.val := by simp [Rb.size, h, hle]

theorem size_of_head_lt_tail (h : r.full = false) (hlt : r.head.val < r.tail.val) :
    r.size = c + r.head.val - r.tail.val := by simp [Rb.size, h, Nat.not_le.mpr hlt]

/-- I4: a full queue has a positive size, because a capacity that has an index is positive. -/
theorem size_eq_zero_iff : r.size = 0 ↔ r.full = false ∧ r.head = r.tail := by
  have hhead := r.head.isLt
  have htail := r.tail.isLt
  rw [Fin.ext_iff]
  cases hfull : r.full with
  | true =>
    rw [size_of_full r hfull]
    exact iff_of_false (by omega) (by simp)
  | false =>
    rw [and_iff_right rfl]
    rcases Nat.lt_or_ge r.head.val r.tail.val with hlt | hle
    · rw [size_of_head_lt_tail r hfull hlt]; omega
    · rw [size_of_tail_le_head r hfull hle]; omega

/-- I5. -/
theorem size_le_capacity : r.size ≤ c := by
  have hhead := r.head.isLt
  cases hfull : r.full with
  | true => exact (size_of_full r hfull).le
  | false =>
    rcases Nat.lt_or_ge r.head.val r.tail.val with hlt | hle
    · rw [size_of_head_lt_tail r hfull hlt]; omega
    · rw [size_of_tail_le_head r hfull hle]; omega

/-- Of the five invariants only I3 is not already true by the types. -/
theorem invariants_iff : r.invariants ↔ (r.full = true → r.head = r.tail) :=
  ⟨fun ⟨_, _, i3, _, _⟩ => i3,
    fun i3 => ⟨r.head.isLt, r.tail.isLt, i3, size_eq_zero_iff r, size_le_capacity r⟩⟩

theorem invariants_of_not_full (h : r.full = false) : r.invariants :=
  (invariants_iff r).mpr fun hfull => by simp [h] at hfull

theorem init_invariants : r.init.invariants := invariants_of_not_full _ (init_full r)

theorem clear_invariants : r.clear.invariants := invariants_of_not_full _ (clear_full r)

/-- A PUT sets `full` to `head == tail` of the indices it leaves (40_ringbuffer_ops R96), so I3 holds after it whatever
held before. -/
theorem put_invariants : (r.put b).invariants :=
  (invariants_iff _).mpr fun hfull => of_decide_eq_true ((put_full r b).symm.trans hfull)

theorem advance_invariants : r.advance.invariants := invariants_of_not_full _ (advance_full r)

theorem get_invariants (h : r.invariants) : r.get.2.invariants := by
  cases hempty : r.isEmpty with
  | true => rw [get_of_empty r hempty]; exact h
  | false => rw [get_of_not_empty r hempty]; exact advance_invariants r

theorem putGet_invariants : (r.putGet b).2.invariants := put_invariants r.get.2 b

theorem exec_nop_eq (s : State) : exec .nop s = .next (s.setRb s.rb none) := rfl

theorem nop_invariants {s t : State} (h : s.rb.invariants) (ht : exec .nop s = .next t) : t.rb.invariants := by
  rw [exec_nop_eq] at ht
  cases ht
  exact h

theorem reset_invariants : State.reset.rb.invariants := invariants_of_not_full _ rfl

/-- Settles O30, one lemma for each operation. -/
theorem ringOperationsKeepTheInvariants : Obligations.RingOperationsKeepTheInvariants :=
  ⟨fun _ r b h =>
    ⟨init_invariants r, clear_invariants r, put_invariants r b, get_invariants r h, putGet_invariants r b⟩,
    fun _ _ => nop_invariants, reset_invariants⟩

end Sys2Proof.Machine
end

section
/-! PROOF. The value of two bytes put together, high byte first, and of the operands that are read so (30_encoding R66). -/

namespace Sys2Proof

/-- The low byte is below 256, so the bits of the two bytes do not overlap and `{hi, lo}` is their sum. -/
theorem be16_toNat (hi lo : Byte) : (be16 hi lo).toNat = hi.toNat * 256 + lo.toNat :=
  calc (be16 hi lo).toNat
    _ = hi.toNat <<< 8 ||| lo.toNat := BitVec.toNat_append hi lo
    _ = hi.toNat <<< 8 + lo.toNat := (Nat.shiftLeft_add_eq_or_of_lt lo.isLt hi.toNat).symm
    _ = hi.toNat * 256 + lo.toNat := by rw [Nat.shiftLeft_eq]

end Sys2Proof

namespace Sys2Proof.Machine

/-- Settles O35: `A`, `B` and `D` are two payload bytes put together, and `Echo` is one payload byte. -/
theorem operandsAreBigEndian : Obligations.OperandsAreBigEndian := fun d =>
  ⟨be16_toNat (d.payload 0) (d.payload 1), be16_toNat (d.payload 2) (d.payload 3),
    be16_toNat (d.payload 0) (d.payload 1), rfl⟩

end Sys2Proof.Machine
end

section
/-! PROOF. The size of the ring buffer against its two flags (40_ringbuffer_ops R103). -/

namespace Sys2Proof.Machine

variable {c : Nat} (r : Rb c)

/-- While the queue is not full its indices are less than `c` steps apart. -/
theorem size_lt_capacity_of_not_full (h : r.full = false) : r.size < c := by
  have hhead := r.head.isLt
  rcases Nat.lt_or_ge r.head.val r.tail.val with hlt | hle
  · rw [size_of_head_lt_tail r h hlt]; omega
  · rw [size_of_tail_le_head r h hle]; omega

theorem size_eq_zero_iff_isEmpty : r.size = 0 ↔ r.isEmpty = true :=
  (size_eq_zero_iff r).trans (rbIsEmpty_iff r).symm

/-- 40_ringbuffer_ops R93. -/
theorem rbIsFull_eq : r.isFull = r.full := rfl

theorem size_eq_capacity_iff_isFull : r.size = c ↔ r.isFull = true := by
  rw [rbIsFull_eq]
  cases hfull : r.full with
  | true => exact iff_of_true (size_of_full r hfull) rfl
  | false => exact iff_of_false (size_lt_capacity_of_not_full r hfull).ne Bool.false_ne_true

/-- Settles O33. The storage form and I3 of `ok` are not needed: `size` and the flags read only `full` and the indices,
which are below the capacity by their type. -/
theorem sizeAgreesWithFlags : Obligations.SizeAgreesWithFlags := fun _ r _ =>
  ⟨size_eq_zero_iff_isEmpty r, size_eq_capacity_iff_isFull r⟩

end Sys2Proof.Machine
end

section
/-! PROOF. The unread bytes under each operation of the ring buffer (40_ringbuffer_ops R101): a PUT appends, a GET takes the
first, and a PUT on a full queue is a PUT on what a GET leaves. The laws hold for every capacity. -/

namespace Sys2Proof.Machine

variable {c : Nat} {r : Rb c}

/-! ### The invariant of the ring buffer -/

theorem rbOk_iff : r.ok = true ↔ r.buf.wf c = true ∧ (r.full = true → r.head = r.tail) := by
  cases h : r.full <;> simp [Rb.ok, h]

theorem rbOk_buf_wf (h : r.ok = true) : r.buf.wf c = true := (rbOk_iff.1 h).1

theorem rbOk_head_eq_tail (h : r.ok = true) (hfull : r.full = true) : r.head = r.tail := (rbOk_iff.1 h).2 hfull

theorem rbOk_of_not_full (hbuf : r.buf.wf c = true) (hfull : r.full = false) : r.ok = true :=
  rbOk_iff.2 ⟨hbuf, fun h => by simp [hfull] at h⟩

theorem init_ok : r.init.ok = true := rbOk_of_not_full (init_buf_wf r) (init_full r)

theorem clear_ok (h : r.ok = true) : r.clear.ok = true :=
  rbOk_of_not_full (clear_buf_wf r (rbOk_buf_wf h)) (clear_full r)

theorem advance_ok (h : r.ok = true) : r.advance.ok = true :=
  rbOk_of_not_full (by rw [advance_buf]; exact rbOk_buf_wf h) (advance_full r)

theorem put_ok (h : r.ok = true) (b : Byte) : (r.put b).ok = true :=
  rbOk_iff.2 ⟨put_buf_wf r b (rbOk_buf_wf h), fun hfull => of_decide_eq_true ((put_full r b).symm.trans hfull)⟩

/-! ### Sizes -/

/-- The oldest byte is `size` slots before `head`. -/
theorem tail_add_size_mod (h : r.ok = true) : (r.tail.val + r.size) % c = r.head.val := by
  have hhead := r.head.isLt
  cases hfull : r.full with
  | true =>
    rw [size_of_full r hfull, Nat.add_mod_right, ← rbOk_head_eq_tail h hfull, Nat.mod_eq_of_lt hhead]
  | false =>
    rcases Nat.lt_or_ge r.head.val r.tail.val with hlt | hle
    · rw [size_of_head_lt_tail r hfull hlt,
        show r.tail.val + (c + r.head.val - r.tail.val) = r.head.val + c by omega, Nat.add_mod_right,
        Nat.mod_eq_of_lt hhead]
    · rw [size_of_tail_le_head r hfull hle, show r.tail.val + (r.head.val - r.tail.val) = r.head.val by omega,
        Nat.mod_eq_of_lt hhead]

/-- A queue that is not full is as long as its indices are apart, so they fix its size. -/
theorem size_eq_of_tail_add_mod (hfull : r.full = false) {n : Nat} (hn : n < c)
    (h : (r.tail.val + n) % c = r.head.val) : r.size = n := by
  have htail := r.tail.isLt
  rcases Nat.lt_or_ge (r.tail.val + n) c with hlt | hge
  · rw [Nat.mod_eq_of_lt hlt] at h
    rw [size_of_tail_le_head r hfull (by omega)]
    omega
  · rw [Nat.mod_eq_sub_mod hge, Nat.mod_eq_of_lt (by omega)] at h
    rw [size_of_head_lt_tail r hfull (by omega)]
    omega

theorem size_pos_of_not_empty (h : r.isEmpty = false) : 0 < r.size :=
  Nat.pos_of_ne_zero fun h0 => by simp [(size_eq_zero_iff_isEmpty r).1 h0] at h

theorem not_full_of_size_lt (h : r.size < c) : r.full = false := by
  cases hfull : r.full with
  | true => exact absurd (size_of_full r hfull) h.ne
  | false => rfl

/-- A GET takes one byte away. -/
theorem size_advance (h : r.ok = true) (hne : r.isEmpty = false) : r.advance.size = r.size - 1 := by
  have hpos := size_pos_of_not_empty hne
  have hle := size_le_capacity r
  refine size_eq_of_tail_add_mod (advance_full r) (by omega) ?_
  rw [advance_tail, nextIdx_val, Nat.mod_add_mod, advance_head, ← tail_add_size_mod h]
  congr 1
  omega

theorem size_advance_lt (h : r.ok = true) (hne : r.isEmpty = false) : r.advance.size < c := by
  have hpos := size_pos_of_not_empty hne
  have hle := size_le_capacity r
  rw [size_advance h hne]
  omega

/-- After a PUT on a queue that is not full the indices are one slot further apart. -/
theorem tail_add_size_succ_mod (h : r.ok = true) : (r.tail.val + (r.size + 1)) % c = (nextIdx r.head).val := by
  rw [nextIdx_val, ← tail_add_size_mod h, Nat.mod_add_mod, Nat.add_assoc]

/-- A PUT on a queue that is not full adds one byte. -/
theorem size_put (h : r.ok = true) (hlt : r.size < c) (b : Byte) : (r.put b).size = r.size + 1 := by
  have hfull := not_full_of_size_lt hlt
  have htail : (r.put b).tail = r.tail := by simp [hfull]
  have hidx := tail_add_size_succ_mod h
  rcases Nat.lt_or_ge (r.size + 1) c with hlt' | hge
  · have hput : (r.put b).full = false := by
      rw [put_full, htail, put_head, decide_eq_false_iff_not, Fin.ext_iff, ← hidx]
      intro heq
      have := Nat.ModEq.add_left_cancel' r.tail.val
        (show r.tail.val + (r.size + 1) ≡ r.tail.val + 0 [MOD c] from heq.trans (Nat.mod_eq_of_lt r.tail.isLt).symm)
      have := this.eq_of_lt_of_lt hlt' r.tail.pos
      omega
    exact size_eq_of_tail_add_mod hput hlt' (by rw [htail, put_head, hidx])
  · have hc : r.size + 1 = c := by omega
    have hput : (r.put b).full = true := by
      rw [put_full, htail, put_head, decide_eq_true_eq, Fin.ext_iff, ← hidx, hc, Nat.add_mod_right,
        Nat.mod_eq_of_lt r.tail.isLt]
    rw [size_of_full _ hput, hc]

/-- 40_ringbuffer_ops R96: on a full queue the oldest byte goes, as a GET would take it, before the new one is stored. -/
theorem put_of_full (hfull : r.full = true) (b : Byte) : r.put b = r.advance.put b := by
  simp [Rb.put, Rb.advance, hfull]

/-! ### Contents -/

@[simp] theorem length_contents : r.contents.length = r.size := by simp [Rb.contents]

theorem contents_eq_nil_iff : r.contents = [] ↔ r.isEmpty = true := by
  rw [← size_eq_zero_iff_isEmpty, ← length_contents, List.length_eq_zero_iff]

theorem contents_of_empty (h : r.isEmpty = true) : r.contents = [] := contents_eq_nil_iff.2 h

theorem init_isEmpty : r.init.isEmpty = true := (rbIsEmpty_iff _).2 ⟨rfl, rfl⟩

theorem clear_isEmpty : r.clear.isEmpty = true := (rbIsEmpty_iff _).2 ⟨rfl, rfl⟩

@[simp] theorem contents_init : r.init.contents = [] := contents_of_empty init_isEmpty

@[simp] theorem contents_clear : r.clear.contents = [] := contents_of_empty clear_isEmpty

/-- The oldest unread byte is the one in slot `tail`; the others are what a GET leaves. -/
theorem contents_eq_cons (h : r.ok = true) (hne : r.isEmpty = false) :
    r.contents = r.buf.read r.tail :: r.advance.contents := by
  have hpos := size_pos_of_not_empty hne
  have hsize : r.size = r.advance.size + 1 := by rw [size_advance h hne]; omega
  rw [Rb.contents, hsize, List.range_succ_eq_map, List.map_cons, List.map_map, Nat.add_zero,
    Nat.mod_eq_of_lt r.tail.isLt]
  congr 1
  refine List.map_congr_left fun i _ => ?_
  rw [Function.comp_apply, advance_buf, advance_tail, nextIdx_val, Nat.mod_add_mod, Nat.succ_eq_add_one,
    Nat.add_assoc, Nat.add_comm 1 i]

theorem contents_advance (h : r.ok = true) (hne : r.isEmpty = false) : r.advance.contents = r.contents.drop 1 := by
  rw [contents_eq_cons h hne, List.drop_one, List.tail_cons]

/-- The slots of the unread bytes are not the one that the next PUT writes. -/
theorem unread_slot_ne_head (h : r.ok = true) (hlt : r.size < c) {i : Nat} (hi : i < r.size) :
    (r.tail.val + i) % c ≠ r.head.val := by
  rw [← tail_add_size_mod h]
  intro heq
  have hmod := Nat.ModEq.add_left_cancel' r.tail.val (show r.tail.val + i ≡ r.tail.val + r.size [MOD c] from heq)
  exact hi.ne (hmod.eq_of_lt_of_lt (hi.trans hlt) hlt)

theorem contents_put_of_lt (h : r.ok = true) (hlt : r.size < c) (b : Byte) : (r.put b).contents = r.contents ++ [b] := by
  have hbuf := rbOk_buf_wf h
  have htail : (r.put b).tail = r.tail := by simp [not_full_of_size_lt hlt]
  rw [Rb.contents, size_put h hlt, List.range_succ, List.map_append, List.map_singleton, htail, put_buf,
    tail_add_size_mod h, Memory.read_write_same hbuf]
  congr 1
  refine List.map_congr_left fun i hi => ?_
  exact Memory.read_write_other hbuf b (unread_slot_ne_head h hlt (List.mem_range.1 hi))

theorem isEmpty_of_full (hfull : r.full = true) : r.isEmpty = false := by simp [Rb.isEmpty, hfull]

theorem contents_put_of_full (h : r.ok = true) (hfull : r.full = true) (b : Byte) :
    (r.put b).contents = r.contents.drop 1 ++ [b] := by
  have hne := isEmpty_of_full hfull
  rw [put_of_full hfull, contents_put_of_lt (advance_ok h) (size_advance_lt h hne), contents_advance h hne]

theorem full_of_size_not_lt (h : ¬ r.size < c) : r.full = true := by
  have hsize : r.size = c := le_antisymm (size_le_capacity r) (Nat.le_of_not_lt h)
  exact (size_eq_capacity_iff_isFull r).1 hsize

/-- A PUT appends its byte; only on a full queue the oldest byte goes. -/
theorem contents_put (h : r.ok = true) (b : Byte) :
    (r.put b).contents = (if r.size < c then r.contents else r.contents.drop 1) ++ [b] := by
  split
  case isTrue hlt => exact contents_put_of_lt h hlt b
  case isFalse hge => exact contents_put_of_full h (full_of_size_not_lt hge) b

theorem put_isEmpty (h : r.ok = true) (b : Byte) : (r.put b).isEmpty = false := by
  rw [← Bool.not_eq_true, ← contents_eq_nil_iff, contents_put h]
  simp

/-- `rd_data` shows the oldest unread byte. -/
theorem peek_eq_head? (h : r.ok = true) : r.peek = r.contents.head? := by
  cases hempty : r.isEmpty with
  | true => rw [peek_of_empty r hempty, contents_of_empty hempty, List.head?_nil]
  | false => rw [peek_of_not_empty r hempty, contents_eq_cons h hempty, List.head?_cons]

theorem get_fst_eq_head? (h : r.ok = true) : r.get.1 = r.contents.head? := by
  rw [← peek_eq_head? h]
  cases hempty : r.isEmpty with
  | true => rw [get_of_empty r hempty, peek_of_empty r hempty]
  | false => rw [get_of_not_empty r hempty, peek_of_not_empty r hempty]

theorem get_ok (h : r.ok = true) : r.get.2.ok = true := by
  cases hempty : r.isEmpty with
  | true => rw [get_of_empty r hempty]; exact h
  | false => rw [get_of_not_empty r hempty]; exact advance_ok h

theorem contents_get (h : r.ok = true) : r.get.2.contents = r.contents.drop 1 := by
  cases hempty : r.isEmpty with
  | true => rw [get_of_empty r hempty, contents_of_empty hempty, List.drop_nil]
  | false => rw [get_of_not_empty r hempty, contents_advance h hempty]

/-- A queue of one capacity shows of itself only what its unread bytes are. -/
theorem isEmpty_eq_of_contents_eq {q : Rb c} (h : q.contents = r.contents) : q.isEmpty = r.isEmpty := by
  rw [Bool.eq_iff_iff, ← contents_eq_nil_iff, ← contents_eq_nil_iff, h]

theorem size_eq_of_contents_eq {q : Rb c} (h : q.contents = r.contents) : q.size = r.size := by
  rw [← length_contents, h, length_contents]

theorem isFull_eq_of_contents_eq {q : Rb c} (h : q.contents = r.contents) : q.isFull = r.isFull := by
  rw [Bool.eq_iff_iff, ← size_eq_capacity_iff_isFull, ← size_eq_capacity_iff_isFull, size_eq_of_contents_eq h]

/-- Settles O31. -/
theorem ringBufferIsAQueueOfItsContents : Obligations.RingBufferIsAQueueOfItsContents := by
  intro c r b h
  refine ⟨contents_init, contents_clear, ?_, fun _ => ⟨get_fst_eq_head? h, contents_get h⟩, fun q hq hqr => ?_⟩
  · rw [contents_put h, apply_ite (· ++ [b])]
  · refine ⟨isEmpty_eq_of_contents_eq hqr, isFull_eq_of_contents_eq hqr, size_eq_of_contents_eq hqr, ?_, ?_⟩
    · rw [peek_eq_head? hq, peek_eq_head? h, hqr]
    · rw [get_fst_eq_head? hq, get_fst_eq_head? h, hqr]

/-! ### Many operations in a row -/

theorem foldl_put_ok (h : r.ok = true) (bytes : List Byte) : (bytes.foldl Rb.put r).ok = true := by
  induction bytes generalizing r with
  | nil => exact h
  | cons b bytes ih => exact ih (put_ok h b)

/-- Of all the bytes unread or put the newest `c` are unread after the PUTs (40_ringbuffer_ops R102). -/
theorem contents_foldl_put (h : r.ok = true) (bytes : List Byte) :
    (bytes.foldl Rb.put r).contents = (r.contents ++ bytes).drop (r.size + bytes.length - c) := by
  induction bytes generalizing r with
  | nil =>
    rw [List.foldl_nil, List.append_nil, List.length_nil, Nat.add_zero, Nat.sub_eq_zero_of_le (size_le_capacity r),
      List.drop_zero]
  | cons b bytes ih =>
    rw [List.foldl_cons, ih (put_ok h b), contents_put h, List.length_cons]
    split
    case isTrue hlt =>
      rw [size_put h hlt, List.append_assoc, List.singleton_append]
      congr 1
      omega
    case isFalse hge =>
      have hfull := full_of_size_not_lt hge
      have hne := isEmpty_of_full hfull
      have hpos := size_pos_of_not_empty hne
      have hsize := size_of_full r hfull
      have hput : (r.put b).size = c := by
        rw [put_of_full hfull, size_put (advance_ok h) (size_advance_lt h hne), size_advance h hne]
        omega
      have hdrop : (r.contents ++ b :: bytes).drop 1 = r.contents.drop 1 ++ b :: bytes :=
        List.drop_append_of_le_length (by rw [length_contents]; omega)
      rw [hput, hsize, show c + (bytes.length + 1) - c = 1 + (c + bytes.length - c) by omega, ← List.drop_drop, hdrop,
        List.append_assoc, List.singleton_append]

/-- `n` GETs return the `n` oldest unread bytes. -/
theorem pop_fst (h : r.ok = true) (n : Nat) : (r.pop n).1 = r.contents.take n := by
  induction n generalizing r with
  | zero => rfl
  | succ n ih =>
    rw [Rb.pop, ih (get_ok h), get_fst_eq_head? h, contents_get h]
    cases r.contents <;> simp

/-- Settles O32. -/
theorem fifoRoundTripAndOverflow : Obligations.FifoRoundTripAndOverflow := by
  intro c r bytes h hnil
  have hsize : r.size = 0 := by rw [← length_contents, hnil, List.length_nil]
  have hok := foldl_put_ok h bytes
  have hcontents : (bytes.foldl Rb.put r).contents = bytes.drop (bytes.length - c) := by
    rw [contents_foldl_put h, hnil, hsize, List.nil_append, Nat.zero_add]
  refine ⟨fun hle => ?_, fun hge => ⟨hcontents, ?_⟩⟩
  · rw [pop_fst hok, hcontents, Nat.sub_eq_zero_of_le hle, List.drop_zero, List.take_length]
  · rw [pop_fst hok, hcontents, List.take_of_length_le (by rw [List.length_drop]; omega)]

/-! ### Widths -/

theorem lt_two_pow_indexWidth (x : Fin c) : x.val < 2 ^ Config.indexWidth c :=
  calc x.val
    _ < c := x.isLt
    _ ≤ 2 ^ Nat.clog 2 c := Nat.le_pow_clog (by omega) c
    _ ≤ 2 ^ Config.indexWidth c := Nat.pow_le_pow_right (by omega) (le_max_right 1 _)

theorem size_lt_two_pow_sizeWidth (r : Rb c) : r.size < 2 ^ Config.sizeWidth c :=
  calc r.size
    _ < c + 1 := Nat.lt_succ_of_le (size_le_capacity r)
    _ ≤ 2 ^ Config.sizeWidth c := Nat.le_pow_clog (by omega) (c + 1)

/-- Both widths of this hardware come from 128 < 200 < 201 ≤ 256. -/
theorem clog_two_eq_eight {n : Nat} (hlo : 2 ^ 7 < n) (hhi : n ≤ 2 ^ 8) : Nat.clog 2 n = 8 :=
  le_antisymm (Nat.clog_le_of_le_pow hhi) ((Nat.lt_clog_iff_pow_lt (by omega)).2 hlo)

/-- Settles O34. -/
theorem indicesAndSizesFitTheirWidths : Obligations.IndicesAndSizesFitTheirWidths := by
  refine ⟨fun c x => ⟨?_, lt_two_pow_indexWidth x⟩, fun c r _ => size_lt_two_pow_sizeWidth r, ?_, ?_⟩
  · rcases nextIdx_cases x with ⟨hx, hnext⟩ | ⟨hx, hnext⟩
    · rw [hnext, if_pos hx]
    · rw [hnext, if_neg hx.ne]
  · rw [Config.indexWidth, clog_two_eq_eight (by decide) (by decide)]
    rfl
  · exact clog_two_eq_eight (by decide) (by decide)

end Sys2Proof.Machine
end

section
/-! PROOF. The port operations and the queries (40_ringbuffer_ops R90 to R99): each is one operation of the ring buffer, whose
laws on the unread bytes then say what it shows. -/

namespace Sys2Proof.Machine

/-! ### The meanings as updates of the state -/

theorem exec_init_eq (clr wrEn rdEn : Bool) (s : State) :
    exec (.init clr wrEn rdEn) s = .next ((s.setRb s.rb.init none).setDec .cleared) := rfl

theorem exec_reset_eq (wrEn rdEn : Bool) (s : State) : exec (.reset wrEn rdEn) s = .next (s.setRb s.rb.clear none) := rfl

theorem exec_put_eq (b : Byte) (s : State) : exec (.put b) s = .next (s.setRb (s.rb.put b) none) := rfl

theorem exec_get_eq (s : State) : exec .get s = .next (s.setRb s.rb.get.2 s.rb.get.1) := rfl

theorem exec_putGet_eq (b : Byte) (s : State) :
    exec (.putGet b) s = .next (s.setRb (s.rb.get.2.put b) s.rb.get.1) := rfl

theorem exec_get_of_not_empty {s : State} (h : s.rb.isEmpty = false) :
    exec .get s = .next (s.setRb s.rb.advance (some (s.rb.buf.read s.rb.tail))) := by
  rw [exec_get_eq, get_of_not_empty s.rb h]

theorem exec_putGet_of_empty {s : State} (h : s.rb.isEmpty = true) (b : Byte) : exec (.putGet b) s = exec (.put b) s := by
  rw [exec_putGet_eq, exec_put_eq, get_of_empty s.rb h]

theorem exec_putGet_of_not_empty {s : State} (h : s.rb.isEmpty = false) (b : Byte) :
    exec (.putGet b) s = .next (s.setRb (s.rb.advance.put b) (some (s.rb.buf.read s.rb.tail))) := by
  rw [exec_putGet_eq, get_of_not_empty s.rb h]

@[simp] theorem cleared_pl (i : Fin 15) : Dec.cleared.pl[i] = 0 := by simp [Dec.cleared]

theorem size_init {c : Nat} (r : Rb c) : r.init.size = 0 := (size_eq_zero_iff_isEmpty _).2 init_isEmpty

theorem size_clear {c : Nat} (r : Rb c) : r.clear.size = 0 := (size_eq_zero_iff_isEmpty _).2 clear_isEmpty

/-! ### Reset -/

/-- Settles O1. -/
theorem resetStateHasTheStatedValues : Obligations.ResetStateHasTheStatedValues := by
  refine ⟨Memory.read_nil, rfl, rfl, rfl, rfl, rfl, rfl, ?_⟩
  decide

/-- Settles O2. -/
theorem resetStateIsOk : Obligations.ResetStateIsOk := by
  unfold Obligations.ResetStateIsOk
  decide

/-- Settles O9. -/
theorem initPutsEveryRegisterAtItsResetValue : Obligations.InitPutsEveryRegisterAtItsResetValue := by
  intro c w r s
  refine ⟨_, exec_init_eq c w r s, ?_⟩
  simp only [setDec_rb, setRb_rb, setDec_dec]
  exact ⟨Memory.read_nil, init_head _, init_tail _, init_full _, init_isEmpty, size_init _, rfl, rfl, rfl, rfl, rfl,
    cleared_pl, rfl⟩

/-- Settles O10. -/
theorem resetOperationEmptiesTheQueue : Obligations.ResetOperationEmptiesTheQueue := fun w r s =>
  ⟨s.rb.clear, exec_reset_eq w r s, clear_head _, clear_tail _, clear_full _, clear_buf _, clear_isEmpty, size_clear _,
    contents_clear⟩

/-- Settles O11. -/
theorem nopChangesNothing : Obligations.NopChangesNothing := exec_nop_eq

/-! ### PUT, GET, PUT_GET -/

/-- A PUT writes slot `head` and no other. -/
theorem read_put {c : Nat} {r : Rb c} (h : r.buf.wf c = true) (b : Byte) (a : Nat) :
    (r.put b).buf.read a = if a = r.head.val then b else r.buf.read a := by
  rw [put_buf, Memory.read_write h]

theorem put_full_iff {c : Nat} (r : Rb c) (b : Byte) : (r.put b).full = true ↔ (r.put b).head = (r.put b).tail := by
  rw [put_full, decide_eq_true_eq]

/-- Settles O12. -/
theorem putStoresAndDropsOldest : Obligations.PutStoresAndDropsOldest := by
  intro b s h
  refine ⟨s.rb.put b, exec_put_eq b s, read_put (rbOk_buf_wf h) b, by rw [put_head, nextIdx_val], ?_, put_full_iff s.rb b,
    put_isEmpty h b, contents_put h b⟩
  rw [put_tail]
  split
  · exact nextIdx_val _
  · rfl

/-- Settles O13. -/
theorem getReturnsTheOldestByte : Obligations.GetReturnsTheOldestByte := fun s h hne =>
  ⟨s.rb.buf.read s.rb.tail, s.rb.advance, exec_get_of_not_empty hne, rfl, contents_eq_cons h hne, advance_buf _,
    advance_head _, by rw [advance_tail, nextIdx_val], advance_full _⟩

/-- Settles O14. -/
theorem getOnEmptyHolds : Obligations.GetOnEmptyHolds := by
  intro s h
  rw [exec_get_eq, get_of_empty s.rb h]
  rfl

/-- A GET and then a PUT leave as many bytes as there were. -/
theorem size_advance_put {c : Nat} {r : Rb c} (h : r.ok = true) (hne : r.isEmpty = false) (b : Byte) :
    (r.advance.put b).size = r.size := by
  have hpos := size_pos_of_not_empty hne
  rw [size_put (advance_ok h) (size_advance_lt h hne), size_advance h hne]
  omega

theorem contents_advance_put {c : Nat} {r : Rb c} (h : r.ok = true) (hne : r.isEmpty = false) (b : Byte) :
    (r.advance.put b).contents = r.contents.drop 1 ++ [b] := by
  rw [contents_put_of_lt (advance_ok h) (size_advance_lt h hne), contents_advance h hne]

/-- Settles O15. -/
theorem putGetGetsFirst : Obligations.PutGetGetsFirst := by
  intro b s h
  refine ⟨fun hempty => ⟨exec_putGet_of_empty hempty b, s.rb.put b, exec_putGet_of_empty hempty b, ?_⟩, fun hne =>
    ⟨s.rb.buf.read s.rb.tail, s.rb.advance.put b, exec_putGet_of_not_empty hne b, ?_, contents_advance_put h hne b,
      size_advance_put h hne b, ?_, ?_, ?_, read_put (rbOk_buf_wf (advance_ok h)) b⟩⟩
  · rw [contents_put h, contents_of_empty hempty]
    simp
  · rw [← contents_advance h hne, ← contents_eq_cons h hne]
  · have hsize := size_advance_put h hne b
    rw [Bool.eq_iff_iff, ← rbIsFull_eq, ← rbIsFull_eq, ← size_eq_capacity_iff_isFull, ← size_eq_capacity_iff_isFull, hsize]
  · rw [put_head, nextIdx_val, advance_head]
  · simp

/-! ### Queries -/

theorem isEmpty_eq_decide {c : Nat} (r : Rb c) : r.isEmpty = decide (r.contents = []) := by
  rw [Bool.eq_iff_iff, decide_eq_true_eq, contents_eq_nil_iff]

theorem isFull_eq_decide {c : Nat} (r : Rb c) : r.isFull = decide (r.contents.length = c) := by
  rw [Bool.eq_iff_iff, decide_eq_true_eq, length_contents, size_eq_capacity_iff_isFull]

theorem exec_isEmpty_eq (s : State) : exec .isEmpty s = .next (s.setOut { s.out with empty := s.rb.isEmpty }) := rfl

theorem exec_isFull_eq (s : State) : exec .isFull s = .next (s.setOut { s.out with full := s.rb.isFull }) := rfl

theorem exec_size_eq (s : State) : exec .size s = .next (s.setOut { s.out with size := s.rb.size }) := rfl

theorem exec_peek_eq (s : State) : exec .peek s = .next (s.setOut { s.out with rdData := s.rb.peek }) := rfl

/-- Settles O16. -/
theorem queriesShowTheQueue : Obligations.QueriesShowTheQueue := by
  intro s h
  refine ⟨?_, ?_, ?_, ?_, ?_⟩
  · rw [exec_isEmpty_eq, isEmpty_eq_decide]; rfl
  · rw [exec_isFull_eq, isFull_eq_decide]; rfl
  · rw [exec_size_eq, length_contents]; rfl
  · rw [exec_peek_eq, peek_eq_head? h]; rfl
  · rw [length_contents, Rb.size]

/-! ### The frame of the port operations -/

theorem get_head {c : Nat} (r : Rb c) : r.get.2.head = r.head := by
  cases hempty : r.isEmpty with
  | true => rw [get_of_empty r hempty]
  | false => rw [get_of_not_empty r hempty, advance_head]

/-- Settles O28. -/
theorem portOperationsTouchOnlyTheRingBuffer : Obligations.PortOperationsTouchOnlyTheRingBuffer := by
  intro i s hfmt hwf
  have hput : ∀ (r : Rb Config.capacity) (b : Byte), r.buf = s.rb.buf → r.head = s.rb.head →
      ∀ a, a ≠ s.rb.head.val → (r.put b).buf.read a = s.rb.buf.read a := by
    intro r b hbuf hhead a ha
    rw [read_put (hbuf ▸ hwf), hhead, if_neg ha, hbuf]
  cases i with
  | init clr wrEn rdEn => exact ⟨_, exec_init_eq clr wrEn rdEn s, rfl, rfl, rfl, fun h => absurd rfl (h clr wrEn rdEn),
      fun h => absurd rfl (h clr wrEn rdEn)⟩
  | reset wrEn rdEn => exact ⟨_, exec_reset_eq wrEn rdEn s, rfl, rfl, rfl, fun _ => ⟨rfl, fun _ _ => rfl⟩, fun _ _ => rfl⟩
  | nop => exact ⟨_, exec_nop_eq s, rfl, rfl, rfl, fun _ => ⟨rfl, fun _ _ => rfl⟩, fun _ _ => rfl⟩
  | get =>
    exact ⟨_, exec_get_eq s, rfl, rfl, rfl, fun _ => ⟨rfl, fun a _ => by rw [setRb_rb, get_buf]⟩,
      fun _ _ => get_buf s.rb⟩
  | put b =>
    exact ⟨_, exec_put_eq b s, rfl, rfl, rfl, fun _ => ⟨rfl, hput s.rb b rfl rfl⟩, fun _ h => absurd rfl (h b).1⟩
  | putGet b =>
    exact ⟨_, exec_putGet_eq b s, rfl, rfl, rfl, fun _ => ⟨rfl, hput s.rb.get.2 b (get_buf s.rb) (get_head s.rb)⟩,
      fun _ h => absurd rfl (h b).2⟩
  | _ => cases hfmt

end Sys2Proof.Machine
end

section
/-! PROOF. The wire commands (41_frame_decoder R120 to R130, 42_command_dispatch R142 to R146): a header's instruction is one
consumer step that its type code chooses, and only dispatch and Execute look at the type code. -/

namespace Sys2Proof

/-- The sixteen values of a header field. -/
theorem nibble_cases (t : Nibble) :
    t = 0 ∨ t = 1 ∨ t = 2 ∨ t = 3 ∨ t = 4 ∨ t = 5 ∨ t = 6 ∨ t = 7 ∨ t = 8 ∨ t = 9 ∨ t = 10 ∨ t = 11 ∨ t = 12 ∨ t = 13 ∨
      t = 14 ∨ t = 15 := by
  revert t; decide

/-- The type codes that are commands (30_encoding R62). -/
theorem knownType_iff (t : Nibble) : knownType t = true ↔ t = 1 ∨ t = 2 ∨ t = 4 ∨ t = 6 := by
  simp [knownType, or_assoc]

theorem unassigned_iff (t : Nibble) : knownType t = false ↔ t ≠ 1 ∧ t ≠ 2 ∧ t ≠ 4 ∧ t ≠ 6 := by
  rw [← Bool.not_eq_true, knownType_iff]
  simp only [not_or]

/-- Every row of the header format is the decoding of some header byte. -/
theorem exists_decodeHeader_eq {i : Instr} (h : i.format = .hdr) : ∃ t l, i = decodeHeader (header t l) := by
  cases i with
  | unknown0 l => exact ⟨0, l, by simp [decodeHeader]⟩
  | echo l => exact ⟨1, l, by simp [decodeHeader]⟩
  | add l => exact ⟨2, l, by simp [decodeHeader]⟩
  | unknown3 l => exact ⟨3, l, by simp [decodeHeader]⟩
  | delay l => exact ⟨4, l, by simp [decodeHeader]⟩
  | unknown5 l => exact ⟨5, l, by simp [decodeHeader]⟩
  | log l => exact ⟨6, l, by simp [decodeHeader]⟩
  | unknown7 l => exact ⟨7, l, by simp [decodeHeader]⟩
  | unknown8 l => exact ⟨8, l, by simp [decodeHeader]⟩
  | unknown9 l => exact ⟨9, l, by simp [decodeHeader]⟩
  | unknown10 l => exact ⟨10, l, by simp [decodeHeader]⟩
  | unknown11 l => exact ⟨11, l, by simp [decodeHeader]⟩
  | unknown12 l => exact ⟨12, l, by simp [decodeHeader]⟩
  | unknown13 l => exact ⟨13, l, by simp [decodeHeader]⟩
  | unknown14 l => exact ⟨14, l, by simp [decodeHeader]⟩
  | unknown15 l => exact ⟨15, l, by simp [decodeHeader]⟩
  | _ => cases h

end Sys2Proof

namespace Sys2Proof.Machine

variable {c : Nat}

/-! ### A header's instruction as one consumer step -/

/-- One consumer step of the command with header fields `t` and `l`. -/
def wireStep (t l : Nibble) (s : State c) : Result c :=
  if t = 1 then commandStep 1 l echoHandler s
  else if t = 2 then commandStep 2 l addHandler s
  else if t = 4 then commandStep 4 l delayHandler s
  else if t = 6 then commandStep 6 l logHandler s
  else unknownStep s

/-- What the handler that DISP selects for type code `t` makes of DEC in Execute, and its event (42_command_dispatch R140);
none for an unassigned type code. -/
def Dec.executed (d : Dec) (t : Nibble) : Option (Dec × Event) :=
  if t = 1 then some (.cleared, .send [0x10])
  else if t = 2 then
    some (.cleared, .send [0x32, highByte (d.operandA + d.operandB), lowByte (d.operandA + d.operandB)])
  else if t = 4 then some ({ d with ds := .dw }, .sleepReq d.operandD)
  else if t = 6 then some (.cleared, .log d.text)
  else none

theorem execAt_decodeHeader (h : Byte) (s : State c) :
    execAt (decodeHeader h) s = wireStep (headerType h) (headerLen h) s := by
  unfold decodeHeader
  generalize headerType h = t
  generalize headerLen h = l
  rcases nibble_cases t with rfl | rfl | rfl | rfl | rfl | rfl | rfl | rfl | rfl | rfl | rfl | rfl | rfl | rfl | rfl | rfl <;>
    rfl

/-- The hardware's instructions are those of the capacity 200 (00_scope R1). -/
theorem exec_eq_execAt : exec = execAt := by
  funext i s
  cases i <;> rfl

theorem exec_decodeHeader_header (t l : Nibble) (s : State) : exec (decodeHeader (header t l)) s = wireStep t l s := by
  rw [exec_eq_execAt, execAt_decodeHeader, headerType_header, headerLen_header]

/-- 41_frame_decoder R122: a known type code is dispatched on, another changes nothing. -/
theorem wireStep_of_ah {s : State c} (h : s.dec.ds = .ah) (t l : Nibble) :
    wireStep t l s = .next (if knownType t then s.setDec (s.dec.dispatch t l) else s) := by
  cases ht : knownType t with
  | false =>
    obtain ⟨h1, h2, h4, h6⟩ := (unassigned_iff t).1 ht
    simp [wireStep, unknownStep, h, ← BitVec.ofNat_eq_ofNat, h1, h2, h4, h6]
  | true =>
    rcases (knownType_iff t).1 ht with rfl | rfl | rfl | rfl <;> simp [wireStep, commandStep, h]

theorem wireStep_of_ap {s : State c} (h : s.dec.ds = .ap) (t l : Nibble) : wireStep t l s = collectStep s := by
  simp [wireStep, commandStep, unknownStep, h]

theorem wireStep_of_dw {s : State c} (h : s.dec.ds = .dw) (t l : Nibble) : wireStep t l s = delayWaitStep s := by
  simp [wireStep, commandStep, unknownStep, h]

theorem wireStep_of_ex_some {s : State c} (h : s.dec.ds = .ex) {t : Nibble} {d : Dec} {e : Event}
    (hde : s.dec.executed t = some (d, e)) (l : Nibble) : wireStep t l s = .next ((s.emit e).setDec d) := by
  unfold Dec.executed at hde
  unfold wireStep commandStep
  simp only [h]
  split_ifs at hde ⊢ with h1 h2 h4 h6
  all_goals cases hde; rfl

theorem wireStep_of_ex_none {s : State c} (h : s.dec.ds = .ex) {t : Nibble} (hnone : s.dec.executed t = none)
    (l : Nibble) : wireStep t l s = .refused .executeOfUnknownType := by
  unfold Dec.executed at hnone
  unfold wireStep unknownStep
  simp only [h]
  split_ifs at hnone ⊢ with h1 h2 h4 h6
  rfl

/-- The text of a LOG is as long as its header says: `len` is at most 15, and there are 15 payload registers. -/
theorem length_text (d : Dec) : d.text.length = d.len.toNat := by
  rw [Dec.text, List.length_take, Vector.length_toList]
  exact min_eq_left (Nat.le_of_lt_succ d.len.isLt)

/-- Every handler emits a well-formed event and clears DEC, or lets it wait for the timer. -/
theorem executed_eq_some {d d' : Dec} {t : Nibble} {e : Event} (h : d.executed t = some (d', e)) :
    e.wf = true ∧ (d' = .cleared ∨ (t = 4 ∧ d' = { d with ds := .dw })) := by
  have htext : d.text.length ≤ 15 := by
    rw [length_text]
    exact Nat.le_of_lt_succ d.len.isLt
  unfold Dec.executed at h
  split_ifs at h with h1 h2 h4 h6
  · cases h; exact ⟨rfl, .inl rfl⟩
  · cases h; exact ⟨rfl, .inl rfl⟩
  · cases h; exact ⟨rfl, .inr ⟨h4, rfl⟩⟩
  · cases h; exact ⟨decide_eq_true htext, .inl rfl⟩

/-- What one consumer step can do, whatever the command. -/
theorem wireStep_eq_next {t l : Nibble} {s s' : State c} (h : wireStep t l s = .next s') :
    s' = s ∨
    (s.dec.ds = .ah ∧ s' = s.setDec (s.dec.dispatch t l)) ∨
    (s.dec.ds = .ap ∧ ∃ b, s' = s.setDec (s.dec.collect b)) ∨
    (s.dec.ds = .ex ∧ ∃ e d, s' = (s.emit e).setDec d ∧ e.wf = true ∧
      (d = .cleared ∨ (t = 4 ∧ d = { s.dec with ds := .dw }))) ∨
    (s.dec.ds = .dw ∧ ∃ e, s' = (s.emit e).setDec .cleared ∧ e.wf = true) := by
  cases hds : s.dec.ds with
  | ah =>
    rw [wireStep_of_ah hds] at h
    cases h
    split
    · exact .inr (.inl ⟨rfl, rfl⟩)
    · exact .inl rfl
  | ap =>
    rw [wireStep_of_ap hds, collectStep_eq_next] at h
    rcases h with ⟨_, rfl⟩ | ⟨b, _, _, rfl⟩
    · exact .inl rfl
    · exact .inr (.inr (.inl ⟨rfl, b, rfl⟩))
  | ex =>
    cases hde : s.dec.executed t with
    | none => rw [wireStep_of_ex_none hds hde] at h; cases h
    | some x =>
      obtain ⟨d, e⟩ := x
      rw [wireStep_of_ex_some hds hde] at h
      cases h
      exact .inr (.inr (.inr (.inl ⟨rfl, e, d, rfl, executed_eq_some hde⟩)))
  | dw =>
    rw [wireStep_of_dw hds, delayWaitStep_eq_next] at h
    rcases h with ⟨_, rfl⟩ | ⟨_, rfl⟩
    · exact .inl rfl
    · exact .inr (.inr (.inr (.inr ⟨rfl, _, rfl, rfl⟩)))

/-! ### Dispatch -/

theorem plen_add (l : Nibble) : plen 2 l = 4 := rfl

theorem plen_delay (l : Nibble) : plen 4 l = 3 := rfl

theorem plen_log (l : Nibble) : plen 6 l = l := rfl

/-- The unassigned instructions change nothing in AH. -/
theorem exec_unknownInstrs_of_ah {s : State} (h : s.dec.ds = .ah) (l : Nibble) :
    ∀ i ∈ unknownInstrs l, exec i s = .next s := by
  have key : unknownStep s = .next s := unknownStep_eq_next.2 (.inl ⟨h, rfl⟩)
  simp only [unknownInstrs, List.forall_mem_cons]
  exact ⟨key, key, key, key, key, key, key, key, key, key, key, key, by simp⟩

/-- Settles O24. -/
theorem unknownHeadersChangeNothing : Obligations.UnknownHeadersChangeNothing := by
  intro l s h
  have key := exec_unknownInstrs_of_ah h l
  simpa only [unknownInstrs, List.forall_mem_cons, List.not_mem_nil, false_implies, implies_true, and_true] using key

/-- In AH the header's instruction writes the registers that `dispatch` lists. -/
theorem commandStep_of_ah {s : State c} (h : s.dec.ds = .ah) (t l : Nibble) (handler : State c → State c) :
    commandStep t l handler s = .next (s.setDec (s.dec.dispatch t l)) := commandStep_eq_next.2 (.inl ⟨h, rfl⟩)

/-- Settles O17. -/
theorem headerDispatchSetsTheRegisters : Obligations.HeaderDispatchSetsTheRegisters := fun l _ h =>
  ⟨commandStep_of_ah h 1 l echoHandler, commandStep_of_ah h 2 l addHandler, commandStep_of_ah h 4 l delayHandler,
    commandStep_of_ah h 6 l logHandler, exec_unknownInstrs_of_ah h l⟩

/-! ### Payload -/

theorem collectStep_of_none {s : State c} (h : s.got = none) : collectStep s = .next s :=
  collectStep_eq_next.2 (.inl ⟨h, rfl⟩)

theorem collectStep_of_lt {s : State c} {b : Byte} (h : s.got = some b) (hlt : s.dec.idx < s.dec.need) :
    collectStep s = .next (s.setDec (s.dec.collect b)) := collectStep_eq_next.2 (.inr ⟨b, h, hlt, rfl⟩)

theorem collectStep_of_not_lt {s : State c} {b : Byte} (h : s.got = some b) (hge : ¬ s.dec.idx < s.dec.need) :
    collectStep s = .refused .payloadBeyondNeed := by simp [collectStep, h, hge]

/-- Below `need` the counter does not wrap. -/
theorem idx_succ_toNat {d : Dec} (h : d.idx < d.need) : (d.idx + 1).toNat = d.idx.toNat + 1 := by
  have := d.need.isLt
  bv_omega

theorem idx_succ_eq_need_iff {d : Dec} (h : d.idx < d.need) : d.idx + 1 = d.need ↔ d.idx.toNat + 1 = d.need.toNat := by
  rw [← BitVec.toNat_inj, idx_succ_toNat h]

theorem collect_pl_get (d : Dec) (b : Byte) (k : Fin 15) :
    (d.collect b).pl[k] = if k.val = d.idx.toNat then b else d.pl[k] := by
  simp [collect_pl, Vector.getElem_setIfInBounds, eq_comm]

/-- Settles O25. -/
theorem payloadByteIsCollectedOrAwaited : Obligations.PayloadByteIsCollectedOrAwaited := by
  intro i s hfmt hds
  obtain ⟨t, l, rfl⟩ := exists_decodeHeader_eq hfmt
  rw [exec_decodeHeader_header, wireStep_of_ap hds]
  refine ⟨collectStep_of_none, fun b hgot hlt => ⟨s.dec.collect b, collectStep_of_lt hgot hlt, idx_succ_toNat hlt,
    collect_pl_get s.dec b, rfl, rfl, rfl, ?_⟩⟩
  rw [collect_ds, hds]
  simp only [idx_succ_eq_need_iff hlt]

/-- Settles O29. -/
theorem unassignedExecuteAndSurplusPayloadAreRefused : Obligations.UnassignedExecuteAndSurplusPayloadAreRefused := by
  refine ⟨fun l s hds => ?_, fun i s b hfmt hds hgot hge => ?_⟩
  · have key : unknownStep s = .refused .executeOfUnknownType := by simp [unknownStep, hds]
    simp only [unknownInstrs, List.forall_mem_cons]
    exact ⟨key, key, key, key, key, key, key, key, key, key, key, key, by simp⟩
  · obtain ⟨t, l, rfl⟩ := exists_decodeHeader_eq hfmt
    rw [exec_decodeHeader_header, wireStep_of_ap hds, collectStep_of_not_lt hgot hge]

/-! ### Execute and the Delay wait -/

theorem commandStep_of_ex {s : State c} (h : s.dec.ds = .ex) (t l : Nibble) (handler : State c → State c) :
    commandStep t l handler s = .next (handler s) := commandStep_eq_next.2 (.inr (.inr (.inl ⟨h, rfl⟩)))

/-- Settles O19. -/
theorem echoAnswersItsMarker : Obligations.EchoAnswersItsMarker := fun l _ h => commandStep_of_ex h 1 l echoHandler

theorem highByte_toNat (v : Half) : (highByte v).toNat = v.toNat / 256 := by
  have := v.isLt
  simp only [highByte, BitVec.extractLsb'_toNat, Nat.shiftRight_eq_div_pow]
  omega

theorem lowByte_toNat (v : Half) : (lowByte v).toNat = v.toNat % 256 := by
  simp only [lowByte, BitVec.extractLsb'_toNat, Nat.shiftRight_zero]

/-- The two bytes of a 16-bit value, high byte first. -/
theorem high_low_toNat (v : Half) : 256 * (highByte v).toNat + (lowByte v).toNat = v.toNat := by
  rw [highByte_toNat, lowByte_toNat, Nat.div_add_mod]

/-- Settles O20: the operands are the registers' pairs as numbers, the rest is arithmetic modulo 65536. -/
theorem addAnswersTheSumModulo65536 : Obligations.AddAnswersTheSumModulo65536 := by
  intro l s hds
  have hsum : (s.dec.operandA + s.dec.operandB).toNat =
      ((s.dec.pl[0].toNat * 256 + s.dec.pl[1].toNat) + (s.dec.pl[2].toNat * 256 + s.dec.pl[3].toNat)) % 65536 := by
    obtain ⟨hA, hB, _, _⟩ := operandsAreBigEndian s.dec
    rw [BitVec.toNat_add, hA, hB]
  have hlo := lowByte_toNat (s.dec.operandA + s.dec.operandB)
  have hhi := highByte_toNat (s.dec.operandA + s.dec.operandB)
  have h0 := s.dec.pl[0].isLt
  have h1 := s.dec.pl[1].isLt
  have h2 := s.dec.pl[2].isLt
  have h3 := s.dec.pl[3].isLt
  refine ⟨highByte (s.dec.operandA + s.dec.operandB), lowByte (s.dec.operandA + s.dec.operandB),
    commandStep_of_ex hds 2 l addHandler, (high_low_toNat _).trans hsum, ?_, ?_⟩
  · rw [hlo, hsum]; omega
  · rw [hhi, hsum]; split <;> omega

/-- Settles O21. -/
theorem delayAsksForItsSleep : Obligations.DelayAsksForItsSleep := fun l s h =>
  ⟨s.dec.operandD, (operandsAreBigEndian s.dec).2.2.1, commandStep_of_ex h 4 l delayHandler⟩

theorem delayWaitStep_of_idle {s : State c} (h : s.input.sleepDone = false) : delayWaitStep s = .next s :=
  delayWaitStep_eq_next.2 (.inl ⟨h, rfl⟩)

theorem delayWaitStep_of_done {s : State c} (h : s.input.sleepDone = true) :
    delayWaitStep s = .next ((s.emit (.send [0x51, s.dec.operandEcho])).returnToAh) :=
  delayWaitStep_eq_next.2 (.inr ⟨h, rfl⟩)

/-- Settles O22. -/
theorem delayHoldsUntilTheTimerAnswers : Obligations.DelayHoldsUntilTheTimerAnswers := by
  intro l s hds
  have hstep : exec (.delay l) s = delayWaitStep s := by
    change commandStep 4 l delayHandler s = _
    simp [commandStep, hds]
  exact ⟨fun h => hstep.trans (delayWaitStep_of_idle h), fun h => hstep.trans (delayWaitStep_of_done h)⟩

/-- 10_state R18 to R21: a known command with its payload length in `need`, and 0 in the registers not yet written. -/
def Dec.InProgress (d : Dec) : Prop :=
  knownType d.typ = true ∧ d.need = plen d.typ d.len ∧ ∀ x ∈ d.pl.toList.drop d.idx.toNat, x = 0

section DecOk

variable {d : Dec}

theorem decOk_iff_of_ah (hds : d.ds = .ah) : d.ok = true ↔ d = .cleared := by simp [Dec.ok, hds]

theorem decOk_iff_of_ap (hds : d.ds = .ap) : d.ok = true ↔ d.InProgress ∧ d.idx < d.need := by
  simp [Dec.ok, hds, Dec.InProgress, and_assoc]

theorem decOk_iff_of_ex (hds : d.ds = .ex) : d.ok = true ↔ d.InProgress ∧ d.idx = d.need := by
  simp [Dec.ok, hds, Dec.InProgress, and_assoc]

theorem decOk_iff_of_dw (hds : d.ds = .dw) : d.ok = true ↔ d.InProgress ∧ d.idx = d.need ∧ d.typ = 4 := by
  simp [Dec.ok, hds, Dec.InProgress, and_assoc]

/-- The payload registers that a command in progress has not written yet. -/
theorem pl_eq_zero_of_inProgress (h : d.InProgress) {i : Nat} (hi : i < 15) (hle : d.idx.toNat ≤ i) : d.pl[i] = 0 := by
  obtain ⟨_, _, hzero⟩ := h
  refine hzero _ (List.mem_iff_getElem.2 ⟨i - d.idx.toNat, ?_, ?_⟩)
  · rw [List.length_drop, Vector.length_toList]
    exact Nat.sub_lt_sub_right hle hi
  · simp only [List.getElem_drop, Vector.getElem_toList]
    congr 1
    omega

end DecOk

theorem text_getElem? {d : Dec} {i : Nat} (h15 : i < 15) (hi : i < d.len.toNat) : d.text[i]? = some d.pl[i] := by
  rw [Dec.text, List.getElem?_take_of_lt hi, List.getElem?_eq_getElem (by simpa using h15), Vector.getElem_toList]

/-- The ports of a LOG event: its text fills `log_b` up to `len`, and the registers beyond it are 0 already. -/
theorem strobes_log_text {d : Dec} (hok : d.ok = true) (hds : d.ds = .ex) (htyp : d.typ = 6) :
    (Event.log d.text).strobes = { Strobes.none with logValid := true, logLen := d.len, logB := d.pl } := by
  have hlen : BitVec.ofNat 4 d.text.length = d.len := by rw [length_text]; simp
  obtain ⟨hprog, hidx⟩ := (decOk_iff_of_ex hds).1 hok
  have hidxLen : d.idx = d.len := by rw [hidx, hprog.2.1, htyp, plen_log]
  have hpl : (Vector.ofFn fun i : Fin Config.payloadRegs => d.text.getD i 0) = d.pl := by
    refine Vector.ext fun i hi => ?_
    rw [Vector.getElem_ofFn, List.getD_eq_getElem?_getD]
    rcases Nat.lt_or_ge i d.len.toNat with hlt | hge
    · rw [text_getElem? hi hlt, Option.getD_some]
    · rw [List.getElem?_eq_none (by rw [length_text]; exact hge), Option.getD_none,
        pl_eq_zero_of_inProgress hprog hi (by rw [hidxLen]; exact hge)]
  simp only [Event.strobes, hlen, hpl]

/-- Settles O23. -/
theorem logHandsOverItsPayload : Obligations.LogHandsOverItsPayload := by
  intro l s hok hds htyp
  refine ⟨s.dec.text, length_text s.dec, fun i hi => text_getElem? i.isLt hi, ?_⟩
  rw [← strobes_log_text hok hds htyp]
  exact commandStep_of_ex hds 6 l logHandler

/-! ### What every command keeps -/

/-- Settles O26. -/
theorem returnToAwaitHeaderClearsDecoder : Obligations.ReturnToAwaitHeaderClearsDecoder := by
  intro i s t hfmt hds hexec hah
  obtain ⟨ty, l, rfl⟩ := exists_decodeHeader_eq hfmt
  rw [exec_decodeHeader_header] at hexec
  have hcleared : t.dec = .cleared := by
    rcases wireStep_eq_next hexec with rfl | ⟨hds', _⟩ | ⟨hds', b, rfl⟩ | ⟨_, e, d, rfl, _, hd⟩ | ⟨_, e, rfl, _⟩
    · exact absurd hah hds
    · exact absurd hds' hds
    · rw [setDec_dec, collect_ds, hds'] at hah
      split at hah <;> cases hah
    · rcases hd with rfl | ⟨_, rfl⟩
      · rfl
      · cases hah
    · rfl
  rw [hcleared]
  exact ⟨rfl, rfl, rfl, rfl, cleared_pl⟩

/-- Settles O27. -/
theorem commandsTouchOnlyDecoderAndEvents : Obligations.CommandsTouchOnlyDecoderAndEvents := by
  intro i s t hfmt hexec
  obtain ⟨ty, l, rfl⟩ := exists_decodeHeader_eq hfmt
  rw [exec_decodeHeader_header] at hexec
  rcases wireStep_eq_next hexec with rfl | ⟨_, rfl⟩ | ⟨_, b, rfl⟩ | ⟨_, e, d, rfl, hwf, _⟩ | ⟨_, e, rfl, hwf⟩
  · exact ⟨rfl, rfl, rfl, .inl ⟨rfl, rfl⟩⟩
  · exact ⟨rfl, rfl, rfl, .inl ⟨rfl, rfl⟩⟩
  · exact ⟨rfl, rfl, rfl, .inl ⟨rfl, rfl⟩⟩
  · exact ⟨rfl, rfl, rfl, .inr ⟨e, hwf, rfl, rfl⟩⟩
  · exact ⟨rfl, rfl, rfl, .inr ⟨e, hwf, rfl, rfl⟩⟩

end Sys2Proof.Machine
end

section
/-! PROOF. One clock edge (43_top_cycle R160 to R168). RB's part and DEC's part meet only in the byte got, so an edge is RB's
last block of R168 beside a function of the inputs, the byte got and DEC. -/

namespace Sys2Proof.Machine

variable {c : Nat}

/-! ### RB's part of the edge -/

/-- The byte that the GET of an edge returns, none if it does not fire (43_top_cycle R162). -/
def gotAt (inp : Inputs) (rdEn : Bool) (r : Rb c) : Option Byte :=
  if fire inp rdEn r then some (r.buf.read r.tail) else none

/-- The output ports of a cycle: the status of the ring buffer before the edge (10_state R28) beside the strobes. -/
def Rb.ports (r : Rb c) (strobes : Strobes) : Ports :=
  { empty := r.isEmpty, full := r.full, size := r.size, rdData := r.peek, strobes := strobes }

/-- The bits of a control word, `rst` the highest (30_encoding R73). -/
theorem ctlWord_bits : ∀ rst clr wrEn rdEn : Bool,
    (ctlWord rst clr wrEn rdEn).getLsbD 3 = rst ∧ (ctlWord rst clr wrEn rdEn).getLsbD 2 = clr ∧
    (ctlWord rst clr wrEn rdEn).getLsbD 1 = wrEn ∧ (ctlWord rst clr wrEn rdEn).getLsbD 0 = rdEn := by decide

/-- 30_encoding R74. -/
theorem ctlInstr_eq (inp : Inputs) (rdEn : Bool) :
    ctlInstr inp rdEn =
      if inp.rst then .init inp.clr inp.wrEn rdEn
      else if inp.clr then .reset inp.wrEn rdEn
      else if inp.wrEn then (if rdEn then .putGet inp.wrData else .put inp.wrData)
      else if rdEn then .get else .nop := by
  obtain ⟨h3, h2, h1, h0⟩ := ctlWord_bits inp.rst inp.clr inp.wrEn rdEn
  rw [ctlInstr, decodeCtl, h3, h2, h1, h0]

section Fire

variable {inp : Inputs} (rdEn : Bool) (r : Rb c)

theorem gotAt_of_rst (h : inp.rst = true) : gotAt inp rdEn r = none := by simp [gotAt, fire, h]

theorem gotAt_of_clr (h : inp.clr = true) : gotAt inp rdEn r = none := by simp [gotAt, fire, h]

theorem gotAt_of_no_rdEn : gotAt inp false r = none := by simp [gotAt, fire]

theorem gotAt_of_empty (h : r.isEmpty = true) : gotAt inp rdEn r = none := by simp [gotAt, fire, h]

/-- While nothing resets the queue, `rd_en` asks for a GET. -/
theorem gotAt_eq (hrst : inp.rst = false) (hclr : inp.clr = false) :
    gotAt inp rdEn r = if rdEn then r.get.1 else none := by
  cases rdEn with
  | false => exact gotAt_of_no_rdEn r
  | true =>
    cases hempty : r.isEmpty with
    | true => simp [gotAt_of_empty _ r hempty, get_of_empty r hempty]
    | false => simp [gotAt, fire, hrst, hclr, hempty, get_of_not_empty r hempty]

theorem clockedRb_of_rst (h : inp.rst = true) : clockedRb inp rdEn r = r.init := by simp [clockedRb, h]

theorem clockedRb_of_clr (hrst : inp.rst = false) (hclr : inp.clr = true) : clockedRb inp rdEn r = r.clear := by
  simp [clockedRb, hrst, hclr]

/-- The GET first, then the PUT (43_top_cycle R168). -/
theorem clockedRb_eq (hrst : inp.rst = false) (hclr : inp.clr = false) :
    clockedRb inp rdEn r =
      if inp.wrEn then (if rdEn then r.get.2 else r).put inp.wrData else if rdEn then r.get.2 else r := by
  have hget : (if fire inp rdEn r then r.advance else r) = if rdEn then r.get.2 else r := by
    cases rdEn with
    | false => simp [fire]
    | true =>
      cases hempty : r.isEmpty with
      | true => simp [fire, hempty, get_of_empty r hempty]
      | false => simp [fire, hrst, hclr, hempty, get_of_not_empty r hempty]
  simp only [clockedRb, hrst, hclr, hget, Bool.false_eq_true, if_false]

end Fire

/-- The port operation of an edge leaves RB as the last block of R168 says; only INIT touches DEC. -/
theorem execAt_ctlInstr (rdEn : Bool) (s : State c) :
    execAt (ctlInstr s.input rdEn) s =
      .next ((s.setRb (clockedRb s.input rdEn s.rb) (gotAt s.input rdEn s.rb)).setDec
        (if s.input.rst then .cleared else s.dec)) := by
  rw [ctlInstr_eq]
  cases hrst : s.input.rst with
  | true => rw [clockedRb_of_rst _ _ hrst, gotAt_of_rst _ _ hrst]; rfl
  | false =>
    cases hclr : s.input.clr with
    | true => rw [clockedRb_of_clr _ _ hrst hclr, gotAt_of_clr _ _ hclr]; rfl
    | false =>
      rw [clockedRb_eq _ _ hrst hclr, gotAt_eq _ _ hrst hclr]
      cases s.input.wrEn <;> cases rdEn <;> rfl

/-- The state on which the port operation runs: its output ports show the cycle's status. -/
def State.shown (s : State c) : State c := s.setOut (s.rb.ports .none)

/-- The state between RB's part of an edge without `rst` and DEC's. -/
def State.afterRb (s : State c) : State c :=
  s.shown.setRb (clockedRb s.input s.dec.rdEn s.rb) (gotAt s.input s.dec.rdEn s.rb)

@[simp] theorem afterRb_dec (s : State c) : s.afterRb.dec = s.dec := rfl

@[simp] theorem afterRb_got (s : State c) : s.afterRb.got = gotAt s.input s.dec.rdEn s.rb := rfl

theorem driveStatus_beginCycle (s : State c) : driveStatus execAt s.beginCycle = .next s.shown := rfl

theorem rbEdge_eq (rdEn : Bool) (s : State c) :
    rbEdge execAt rdEn s = execAt (ctlInstr s.input rdEn) s.shown := by
  rw [rbEdge, driveStatus_beginCycle, andThen_next]
  rfl

theorem execAt_ctlInstr_shown_of_rst {s : State c} (hrst : s.input.rst = true) :
    execAt (ctlInstr s.input s.dec.rdEn) s.shown = .next (s.afterRb.setDec .cleared) := by
  have h := execAt_ctlInstr s.dec.rdEn s.shown
  rwa [if_pos (show s.shown.input.rst = true from hrst)] at h

theorem execAt_ctlInstr_shown {s : State c} (hrst : s.input.rst = false) :
    execAt (ctlInstr s.input s.dec.rdEn) s.shown = .next s.afterRb := by
  have h := execAt_ctlInstr s.dec.rdEn s.shown
  rwa [if_neg (show ¬ s.shown.input.rst = true by simp [State.shown, hrst])] at h

/-! ### DEC's part of the edge -/

/-- The `case ds of` of R168 as a function of the byte got. -/
def Dec.edge (inp : Inputs) (got : Option Byte) (d : Dec) : Option (Dec × List Event) :=
  if inp.rst then some (.cleared, [])
  else
    match d.ds with
    | .ah =>
      match got with
      | none => some (d, [])
      | some b => some (if knownType (headerType b) then d.dispatch (headerType b) (headerLen b) else d, [])
    | .ap =>
      match got with
      | none => some (d, [])
      | some b => if d.idx < d.need then some (d.collect b, []) else none
    | .ex => (d.executed d.typ).map fun (d', e) => (d', [e])
    | .dw => if inp.sleepDone then some (.cleared, [.send [0x51, d.operandEcho]]) else some (d, [])

section DecEdge

variable {inp : Inputs} {got : Option Byte} {d : Dec} {b : Byte}

theorem decEdge_of_rst (h : inp.rst = true) : d.edge inp got = some (.cleared, []) := by simp [Dec.edge, h]

variable (hrst : inp.rst = false)
include hrst

theorem decEdge_of_ah_none (hds : d.ds = .ah) : d.edge inp none = some (d, []) := by simp [Dec.edge, hrst, hds]

theorem decEdge_of_ah_some (hds : d.ds = .ah) :
    d.edge inp (some b) =
      some (if knownType (headerType b) then d.dispatch (headerType b) (headerLen b) else d, []) := by
  simp [Dec.edge, hrst, hds]

theorem decEdge_of_ap_none (hds : d.ds = .ap) : d.edge inp none = some (d, []) := by simp [Dec.edge, hrst, hds]

theorem decEdge_of_ap_some (hds : d.ds = .ap) :
    d.edge inp (some b) = if d.idx < d.need then some (d.collect b, []) else none := by
  simp [Dec.edge, hrst, hds]

theorem decEdge_of_ex (hds : d.ds = .ex) :
    d.edge inp got = (d.executed d.typ).map fun x => (x.1, [x.2]) := by simp [Dec.edge, hrst, hds]

theorem decEdge_of_dw_done (hds : d.ds = .dw) (h : inp.sleepDone = true) :
    d.edge inp got = some (.cleared, [.send [0x51, d.operandEcho]]) := by simp [Dec.edge, hrst, hds, h]

theorem decEdge_of_dw_idle (hds : d.ds = .dw) (h : inp.sleepDone = false) : d.edge inp got = some (d, []) := by
  simp [Dec.edge, hrst, hds, h]

end DecEdge

/-- R168 looks at the byte only when the GET fires. -/
theorem clockedDec_eq (inp : Inputs) (r : Rb c) (d : Dec) :
    clockedDec inp r d = d.edge inp (gotAt inp d.rdEn r) := by
  cases hrst : inp.rst with
  | true => rw [decEdge_of_rst hrst]; simp [clockedDec, hrst]
  | false =>
    simp only [clockedDec, hrst, Bool.false_eq_true, if_false]
    cases hds : d.ds with
    | ah =>
      cases hfire : fire inp d.rdEn r with
      | false => simp [gotAt, hfire, decEdge_of_ah_none hrst hds]
      | true =>
        simp only [gotAt, hfire, if_true, decEdge_of_ah_some hrst hds, Bool.true_and, Dec.dispatch]
        split <;> rfl
    | ap =>
      cases hfire : fire inp d.rdEn r with
      | false => simp [gotAt, hfire, decEdge_of_ap_none hrst hds]
      | true => simp [gotAt, hfire, decEdge_of_ap_some hrst hds, Dec.collect, hds]
    | ex =>
      rw [decEdge_of_ex hrst hds]
      cases hknown : knownType d.typ with
      | false =>
        obtain ⟨h1, h2, h4, h6⟩ := (unassigned_iff d.typ).1 hknown
        simp only [Dec.executed, h1, h2, h4, h6, if_false, Option.map_none]
      | true =>
        rcases (knownType_iff d.typ).1 hknown with h | h | h | h <;>
          simp [Dec.executed, h, Dec.operandA, Dec.operandB, Dec.operandD, Dec.text]
    | dw =>
      cases hdone : inp.sleepDone with
      | false => simp [decEdge_of_dw_idle hrst hds hdone]
      | true => simp [decEdge_of_dw_done hrst hds hdone, Dec.operandEcho]

/-! ### The whole edge -/

/-- The state after an edge at which DEC becomes `d` and these events are emitted. -/
def State.afterEdge (s : State c) (d : Dec) (events : List Event) : State c :=
  { rb := clockedRb s.input s.dec.rdEn s.rb
    dec := d
    got := gotAt s.input s.dec.rdEn s.rb
    out := s.rb.ports ((events.map Event.strobes).getLastD .none)
    trace := s.trace ++ events
    env := s.env.tail }

/-- Why an edge has no next state (93 U6, log 8). -/
def Dec.refusal (d : Dec) : Refusal := if d.ds = .ex then .executeOfUnknownType else .payloadBeyondNeed

/-- The outcome of an edge from what DEC's part answers. -/
def State.outcome (s : State c) : Option (Dec × List Event) → Result c
  | some (d, events) => .next (s.afterEdge d events)
  | none => .refused s.dec.refusal

@[simp] theorem outcome_some (s : State c) (d : Dec) (events : List Event) :
    s.outcome (some (d, events)) = .next (s.afterEdge d events) := rfl

@[simp] theorem outcome_none (s : State c) : s.outcome none = .refused s.dec.refusal := rfl

section Consumer

variable (s : State c)

theorem consumerEdge_of_rst (h : s.input.rst = true) : consumerEdge execAt s = .next s := by
  simp [consumerEdge, consumerInstr, h]

variable (hrst : s.input.rst = false)
include hrst

theorem consumerEdge_of_ah_none (hds : s.dec.ds = .ah) (hgot : s.got = none) : consumerEdge execAt s = .next s := by
  simp [consumerEdge, consumerInstr, hrst, hds, hgot]

theorem consumerEdge_of_ah_some {b : Byte} (hds : s.dec.ds = .ah) (hgot : s.got = some b) :
    consumerEdge execAt s = execAt (decodeHeader b) s := by
  simp [consumerEdge, consumerInstr, hrst, hds, hgot]

theorem consumerEdge_of_not_ah (hds : s.dec.ds ≠ .ah) :
    consumerEdge execAt s = execAt (decodeHeader (header s.dec.typ s.dec.len)) s := by
  cases h : s.dec.ds with
  | ah => exact absurd h hds
  | _ => simp [consumerEdge, consumerInstr, hrst, h]

theorem consumerEdge_of_not_ah_eq_wireStep (hds : s.dec.ds ≠ .ah) :
    consumerEdge execAt s = wireStep s.dec.typ s.dec.len s := by
  rw [consumerEdge_of_not_ah s hrst hds, execAt_decodeHeader, headerType_header, headerLen_header]

end Consumer

theorem afterRb_endCycle (s : State c) : s.afterRb.endCycle = s.afterEdge s.dec [] :=
  State.eq_of_fields rfl rfl rfl rfl (List.append_nil _).symm rfl

theorem afterRb_setDec_endCycle (s : State c) (d : Dec) : (s.afterRb.setDec d).endCycle = s.afterEdge d [] :=
  State.eq_of_fields rfl rfl rfl rfl (List.append_nil _).symm rfl

theorem afterRb_emit_endCycle (s : State c) (d : Dec) (e : Event) :
    ((s.afterRb.emit e).setDec d).endCycle = s.afterEdge d [e] := rfl

/-- The consumer's part of an edge, by the state that DEC is in, is what DEC's part of R168 answers. -/
theorem andThen_consumerEdge {s : State c} (hrst : s.input.rst = false) :
    (andThen (consumerEdge execAt s.afterRb) fun u => .next u.endCycle) =
      s.outcome (s.dec.edge s.input (gotAt s.input s.dec.rdEn s.rb)) := by
  rw [← afterRb_got]
  cases hds : s.dec.ds with
  | ah =>
    cases hgot : s.afterRb.got with
    | none =>
      rw [consumerEdge_of_ah_none s.afterRb hrst hds hgot, decEdge_of_ah_none hrst hds, andThen_next,
        afterRb_endCycle, outcome_some]
    | some b =>
      rw [consumerEdge_of_ah_some s.afterRb hrst hds hgot, execAt_decodeHeader, wireStep_of_ah (s := s.afterRb) hds,
        andThen_next, decEdge_of_ah_some hrst hds, outcome_some, afterRb_dec]
      split
      · rw [afterRb_setDec_endCycle]
      · rw [afterRb_endCycle]
  | ap =>
    rw [consumerEdge_of_not_ah_eq_wireStep s.afterRb hrst (by simp [hds]),
      wireStep_of_ap (s := s.afterRb) hds]
    cases hgot : s.afterRb.got with
    | none => rw [collectStep_of_none hgot, decEdge_of_ap_none hrst hds, andThen_next, afterRb_endCycle, outcome_some]
    | some b =>
      rw [decEdge_of_ap_some hrst hds]
      by_cases hlt : s.dec.idx < s.dec.need
      · rw [collectStep_of_lt (s := s.afterRb) hgot hlt, if_pos hlt, andThen_next, afterRb_dec, afterRb_setDec_endCycle,
          outcome_some]
      · rw [collectStep_of_not_lt (s := s.afterRb) hgot hlt, if_neg hlt, andThen_refused, outcome_none, Dec.refusal, hds]
        rfl
  | ex =>
    rw [consumerEdge_of_not_ah_eq_wireStep s.afterRb hrst (by simp [hds]),
      decEdge_of_ex hrst hds]
    cases hde : s.dec.executed s.dec.typ with
    | none =>
      rw [wireStep_of_ex_none (s := s.afterRb) (t := s.afterRb.dec.typ) hds hde, andThen_refused, Option.map_none,
        outcome_none, Dec.refusal, hds]
      rfl
    | some x =>
      rw [wireStep_of_ex_some (s := s.afterRb) (t := s.afterRb.dec.typ) (d := x.1) (e := x.2) hds hde, andThen_next,
        afterRb_emit_endCycle, Option.map_some, outcome_some]
  | dw =>
    rw [consumerEdge_of_not_ah_eq_wireStep s.afterRb hrst (by simp [hds]),
      wireStep_of_dw (s := s.afterRb) hds]
    cases hdone : s.input.sleepDone with
    | false =>
      rw [delayWaitStep_of_idle (s := s.afterRb) hdone, decEdge_of_dw_idle hrst hds hdone, andThen_next,
        afterRb_endCycle, outcome_some]
    | true =>
      rw [delayWaitStep_of_done (s := s.afterRb) hdone, decEdge_of_dw_done hrst hds hdone, andThen_next, outcome_some]
      exact congrArg _ (afterRb_emit_endCycle s .cleared _)

/-- An edge is RB's block of R168 beside DEC's. -/
theorem stepAt_eq_outcome (s : State c) :
    stepAt s = s.outcome (s.dec.edge s.input (gotAt s.input s.dec.rdEn s.rb)) := by
  rw [stepAt_eq, rbEdge_eq]
  cases hrst : s.input.rst with
  | true =>
    rw [execAt_ctlInstr_shown_of_rst hrst, andThen_next, consumerEdge_of_rst (s.afterRb.setDec .cleared) hrst,
      decEdge_of_rst hrst, andThen_next, outcome_some, afterRb_setDec_endCycle]
  | false => rw [execAt_ctlInstr_shown hrst, andThen_next, andThen_consumerEdge hrst]

theorem step_eq_stepAt (s : State) : step s = stepAt s := by rw [step, exec_eq_execAt, stepAt]

theorem stepAt_of_decEdge {s : State c} {d : Dec} {events : List Event}
    (h : s.dec.edge s.input (gotAt s.input s.dec.rdEn s.rb) = some (d, events)) :
    stepAt s = .next (s.afterEdge d events) := by rw [stepAt_eq_outcome, h, outcome_some]

theorem stepAt_of_decEdge_none {s : State c} (h : s.dec.edge s.input (gotAt s.input s.dec.rdEn s.rb) = none) :
    stepAt s = .refused s.dec.refusal := by rw [stepAt_eq_outcome, h, outcome_none]

/-! ### The step is R168 -/

theorem clockedStep_eq (inp : Inputs) (r : Rb c) (d : Dec) :
    clockedStep inp r d =
      (d.edge inp (gotAt inp d.rdEn r)).map fun x => (clockedRb inp d.rdEn r, x.1, x.2) := by
  rw [clockedStep, clockedDec_eq]

/-- Settles O6. -/
theorem stepIsRuleR168 : Obligations.StepIsRuleR168 := by
  intro s
  rw [step_eq_stepAt, stepAt_eq_outcome, clockedStep_eq]
  cases s.dec.edge s.input (gotAt s.input s.dec.rdEn s.rb) with
  | none => exact ⟨_, rfl⟩
  | some x => rfl

section Block

variable {inp : Inputs} {b : Block c}

theorem blockStep_of_some {d : Dec} {events : List Event}
    (h : b.dec.edge inp (gotAt inp b.dec.rdEn b.rb) = some (d, events)) :
    blockStep inp b = .next
      ({ rb := clockedRb inp b.dec.rdEn b.rb, dec := d },
       { got := gotAt inp b.dec.rdEn b.rb
         out := b.rb.ports ((events.map Event.strobes).getLastD .none)
         events := events }) := by
  have hstep := stepAt_of_decEdge (s := { toBlock := b, got := none, out := .reset, trace := [], env := [inp] }) h
  rw [blockStep, hstep]
  rfl

theorem blockStep_of_none (h : b.dec.edge inp (gotAt inp b.dec.rdEn b.rb) = none) :
    blockStep inp b = .refused b.dec.refusal := by
  have hstep := stepAt_of_decEdge_none (s := { toBlock := b, got := none, out := .reset, trace := [], env := [inp] }) h
  rw [blockStep, hstep]

end Block

/-- Settles O56. -/
theorem blockStepIsRuleR168ForEveryCapacity : Obligations.BlockStepIsRuleR168ForEveryCapacity := by
  intro c inp b
  rw [clockedStep_eq]
  cases h : b.dec.edge inp (gotAt inp b.dec.rdEn b.rb) with
  | none => exact blockStep_of_none h
  | some x => exact blockStep_of_some h

/-- Settles O57. -/
theorem stepIsTheBlockStepAndItsRecord : Obligations.StepIsTheBlockStepAndItsRecord := by
  intro c s
  cases h : s.dec.edge s.input (gotAt s.input s.dec.rdEn s.rb) with
  | none => rw [stepAt_of_decEdge_none h, blockStep_of_none h]
  | some x => rw [stepAt_of_decEdge h, blockStep_of_some h]; rfl

/-- Settles O55. -/
theorem hardwareIsTheMachineOfCapacity200 : Obligations.HardwareIsTheMachineOfCapacity200 := by
  refine ⟨fun i s => by rw [exec_eq_execAt], step_eq_stepAt, fun h => ?_⟩
  have hstep : step = stepAt := funext step_eq_stepAt
  rw [Sys2Proof.core, machineAt, hstep]
  rfl

/-! ### RB taken alone -/

/-- When the GET fires it returns what `rd_data` shows. -/
theorem gotAt_eq_peek (inp : Inputs) (rdEn : Bool) (r : Rb c) :
    gotAt inp rdEn r = if fire inp rdEn r then r.peek else none := by
  cases hempty : r.isEmpty with
  | true => rw [gotAt_of_empty _ r hempty, peek_of_empty r hempty, ite_self]
  | false => rw [gotAt, peek_of_not_empty r hempty]

theorem rbAloneStepAt_eq (rdEn : Bool) (s : State c) :
    rbAloneStepAt rdEn s =
      .next ((s.shown.setRb (clockedRb s.input rdEn s.rb) (gotAt s.input rdEn s.rb)).setDec
        (if s.input.rst then .cleared else s.dec)).endCycle := by
  rw [rbAloneStepAt, rbAloneEdge, rbEdge_eq]
  exact congrArg (andThen · _) (execAt_ctlInstr rdEn s.shown)

/-- Settles O39. -/
theorem ringBufferAloneFollowsR170 : Obligations.RingBufferAloneFollowsR170 := by
  intro c rdEn s
  refine ⟨_, rbAloneStepAt_eq rdEn s, rfl, gotAt_eq_peek s.input rdEn s.rb, fun hrst => ?_, rfl, rfl, rfl, rfl, rfl, rfl⟩
  rw [endCycle_dec, setDec_dec, hrst]
  rfl

/-! ### The instructions of an edge -/

/-- The port operation of an edge runs on the state that shows the cycle's status. -/
theorem step_eq_ctlInstr (s : State) :
    step s = andThen (execAt (ctlInstr s.input s.dec.rdEn) s.shown)
      fun t => andThen (consumerEdge execAt t) fun u => .next u.endCycle := by
  rw [step_eq, exec_eq_execAt, rbEdge_eq]

/-- Settles O8. -/
theorem stepRunsTheDecodedInstruction : Obligations.StepRunsTheDecodedInstruction := by
  intro s shown hshown
  obtain rfl : shown = s.shown := hshown
  have hctl : ∀ rst clr rdEn, s.input.rst = rst → s.input.clr = clr → s.dec.rdEn = rdEn →
      decodeCtl (ctlWord rst clr s.input.wrEn rdEn) s.input.wrData = ctlInstr s.input s.dec.rdEn := by
    rintro rst clr rdEn rfl rfl rfl
    rfl
  rw [step_eq_ctlInstr, exec_eq_execAt]
  refine ⟨fun hrst => ?_, fun hrst hds hclr hne => ?_, fun hrst hds hor => ?_, fun hrst hds => ?_⟩
  · rw [hctl true _ _ hrst rfl rfl, execAt_ctlInstr_shown_of_rst hrst, andThen_next, andThen_next,
      consumerEdge_of_rst (s.afterRb.setDec .cleared) hrst, andThen_next]
    rfl
  · have hrd : s.dec.rdEn = true := by simp [Dec.rdEn, hds]
    have hgot : s.afterRb.got = some (s.rb.buf.read s.rb.tail) := by
      rw [afterRb_got, gotAt_eq _ _ hrst hclr, hrd, get_of_not_empty s.rb hne]
      rfl
    rw [hctl false false true hrst hclr hrd, execAt_ctlInstr_shown hrst, andThen_next, andThen_next,
      consumerEdge_of_ah_some s.afterRb hrst hds hgot]
    rfl
  · have hrd : s.dec.rdEn = true := by simp [Dec.rdEn, hds]
    have hgot : s.afterRb.got = none := by
      rcases hor with hclr | hempty
      · exact gotAt_of_clr _ _ hclr
      · exact gotAt_of_empty _ _ hempty
    rw [hctl false _ true hrst rfl hrd, execAt_ctlInstr_shown hrst, andThen_next, andThen_next,
      consumerEdge_of_ah_none s.afterRb hrst hds hgot, andThen_next]
    rfl
  · have hrd : s.dec.rdEn = (s.dec.ds == .ap) := by
      cases h : s.dec.ds with
      | ah => exact absurd h hds
      | _ => simp [Dec.rdEn, h]
    rw [hctl false _ _ hrst rfl hrd, execAt_ctlInstr_shown hrst, andThen_next, andThen_next,
      consumerEdge_of_not_ah s.afterRb hrst hds]
    rfl

end Sys2Proof.Machine
end

section
/-! PROOF. The invariant is kept by every edge, for every capacity: DEC's part keeps 10_state R18 to R21, RB's part keeps R14,
and what the ports show is a function of a ring buffer and of at most one event. Then what single edges do. -/

namespace Sys2Proof.Machine

variable {c : Nat}

/-! ### DEC's part keeps the invariant -/

theorem plen_eq_zero_or_lt (t l : Nibble) : plen t l = 0 ∨ (0 : Nibble) < plen t l := by
  generalize plen t l = n
  revert n; decide

theorem cleared_decOk : Dec.cleared.ok = true := rfl

/-- Dispatch on a header from the cleared decoder (41_frame_decoder R122, R123). -/
theorem dispatch_decOk {t : Nibble} (ht : knownType t = true) (l : Nibble) : (Dec.cleared.dispatch t l).ok = true := by
  have hprog : (Dec.cleared.dispatch t l).InProgress := by
    refine ⟨ht, rfl, fun x hx => ?_⟩
    rw [dispatch_pl, Dec.cleared, Vector.toList_replicate] at hx
    exact List.eq_of_mem_replicate (List.mem_of_mem_drop hx)
  rcases plen_eq_zero_or_lt t l with hzero | hpos
  · exact (decOk_iff_of_ex (by rw [dispatch_ds, if_pos hzero])).2 ⟨hprog, hzero.symm⟩
  · have hne : plen t l ≠ 0 := fun h => by rw [h] at hpos; exact absurd hpos (by decide)
    exact (decOk_iff_of_ap (by rw [dispatch_ds, if_neg hne])).2 ⟨hprog, hpos⟩

/-- A payload byte goes to the first register that is not written yet (41_frame_decoder R124). -/
theorem collect_decOk {d : Dec} (hds : d.ds = .ap) (hok : d.ok = true) (b : Byte) : (d.collect b).ok = true := by
  obtain ⟨⟨htyp, hneed, hzero⟩, hlt⟩ := (decOk_iff_of_ap hds).1 hok
  have hidx := idx_succ_toNat hlt
  have hprog : (d.collect b).InProgress := by
    refine ⟨htyp, hneed, fun x hx => ?_⟩
    rw [collect_pl, collect_idx, hidx, Vector.toList_setIfInBounds, List.drop_set_of_lt (Nat.lt_add_one _),
      ← List.drop_drop] at hx
    exact hzero x (List.mem_of_mem_drop hx)
  by_cases hlast : d.idx + 1 = d.need
  · exact (decOk_iff_of_ex (by rw [collect_ds, if_pos hlast])).2 ⟨hprog, hlast⟩
  · refine (decOk_iff_of_ap (by rw [collect_ds, if_neg hlast, hds])).2 ⟨hprog, ?_⟩
    rw [BitVec.lt_def] at hlt
    rw [idx_succ_eq_need_iff hlt] at hlast
    rw [collect_idx, collect_need, BitVec.lt_def, hidx]
    omega

/-- A command in progress is one that DISP has a handler for. -/
theorem exists_executed {t : Nibble} (ht : knownType t = true) (d : Dec) : ∃ d' e, d.executed t = some (d', e) := by
  rcases (knownType_iff t).1 ht with rfl | rfl | rfl | rfl <;> exact ⟨_, _, rfl⟩

theorem executed_decOk {d d' : Dec} {e : Event} (hds : d.ds = .ex) (hok : d.ok = true)
    (h : d.executed d.typ = some (d', e)) : d'.ok = true := by
  obtain ⟨hprog, hidx⟩ := (decOk_iff_of_ex hds).1 hok
  rcases (executed_eq_some h).2 with rfl | ⟨htyp, rfl⟩
  · exact cleared_decOk
  · exact (decOk_iff_of_dw rfl).2 ⟨hprog, hidx, htyp⟩

/-- DEC's part of an edge: never a refusal, the invariant kept, at most one event. -/
theorem exists_decEdge {d : Dec} (hok : d.ok = true) (inp : Inputs) (got : Option Byte) :
    ∃ d' events, d.edge inp got = some (d', events) ∧ d'.ok = true ∧
      (events = [] ∨ ∃ e, events = [e] ∧ e.wf = true) := by
  cases hrst : inp.rst with
  | true => exact ⟨_, _, decEdge_of_rst hrst, cleared_decOk, .inl rfl⟩
  | false =>
    cases hds : d.ds with
    | ah =>
      cases got with
      | none => exact ⟨_, _, decEdge_of_ah_none hrst hds, hok, .inl rfl⟩
      | some b =>
        refine ⟨_, _, decEdge_of_ah_some hrst hds, ?_, .inl rfl⟩
        split
        case isTrue ht => rw [(decOk_iff_of_ah hds).1 hok]; exact dispatch_decOk ht _
        case isFalse => exact hok
    | ap =>
      cases got with
      | none => exact ⟨_, _, decEdge_of_ap_none hrst hds, hok, .inl rfl⟩
      | some b =>
        have hlt := ((decOk_iff_of_ap hds).1 hok).2
        exact ⟨d.collect b, [], by rw [decEdge_of_ap_some hrst hds, if_pos hlt], collect_decOk hds hok b, .inl rfl⟩
    | ex =>
      obtain ⟨d', e, h⟩ := exists_executed ((decOk_iff_of_ex hds).1 hok).1.1 d
      exact ⟨d', [e], by rw [decEdge_of_ex hrst hds, h, Option.map_some], executed_decOk hds hok h,
        .inr ⟨e, rfl, (executed_eq_some h).1⟩⟩
    | dw =>
      cases hdone : inp.sleepDone with
      | false => exact ⟨_, _, decEdge_of_dw_idle hrst hds hdone, hok, .inl rfl⟩
      | true => exact ⟨_, _, decEdge_of_dw_done hrst hds hdone, cleared_decOk, .inr ⟨_, rfl, rfl⟩⟩

/-! ### RB's part and the ports -/

theorem clockedRb_ok {r : Rb c} (h : r.ok = true) (inp : Inputs) (rdEn : Bool) : (clockedRb inp rdEn r).ok = true := by
  cases hrst : inp.rst with
  | true => rw [clockedRb_of_rst _ _ hrst]; exact init_ok
  | false =>
    cases hclr : inp.clr with
    | true => rw [clockedRb_of_clr _ _ hrst hclr]; exact clear_ok h
    | false =>
      have hget : (if rdEn then r.get.2 else r).ok = true := by
        split
        · exact get_ok h
        · exact h
      rw [clockedRb_eq _ _ hrst hclr]
      split
      · exact put_ok hget _
      · exact hget

theorem strobes_none_atMostOne : Strobes.none.atMostOne = true := rfl

theorem event_strobes_atMostOne (e : Event) : e.strobes.atMostOne = true := by cases e <;> rfl

/-- The status ports agree by 40_ringbuffer_ops R103 and R95. -/
theorem ports_ok (r : Rb c) {p : Strobes} (hp : p.atMostOne = true) : (r.ports p).ok c = true := by
  have hempty : r.isEmpty = (r.size == 0) := by rw [Bool.eq_iff_iff, beq_iff_eq, size_eq_zero_iff_isEmpty]
  have hfull : r.full = (r.size == c) := by
    rw [Bool.eq_iff_iff, beq_iff_eq, size_eq_capacity_iff_isFull, rbIsFull_eq]
  have hpeek : r.peek.isNone = r.isEmpty := by
    cases h : r.isEmpty with
    | true => rw [peek_of_empty r h]; rfl
    | false => rw [peek_of_not_empty r h]; rfl
  simp only [Ports.ok, Rb.ports, hpeek, ← hempty, ← hfull, hp, size_le_capacity, decide_true, beq_self_eq_true, Bool.and_true]

theorem stateOk_iff {s : State c} :
    s.ok = true ↔ s.rb.ok = true ∧ s.dec.ok = true ∧ s.out.ok c = true ∧ ∀ e ∈ s.trace, e.wf = true := by
  simp [State.ok, and_assoc]

theorem afterEdge_ok {s : State c} (h : s.ok = true) {d : Dec} (hd : d.ok = true) {events : List Event}
    (hevents : events = [] ∨ ∃ e, events = [e] ∧ e.wf = true) : (s.afterEdge d events).ok = true := by
  obtain ⟨hrb, _, _, htrace⟩ := stateOk_iff.1 h
  have hstrobes : ((events.map Event.strobes).getLastD .none).atMostOne = true := by
    rcases hevents with rfl | ⟨e, rfl, _⟩
    · exact strobes_none_atMostOne
    · exact event_strobes_atMostOne e
  refine stateOk_iff.2 ⟨clockedRb_ok hrb _ _, hd, ports_ok s.rb hstrobes, fun e he => ?_⟩
  rcases List.mem_append.1 he with he | he
  · exact htrace e he
  · rcases hevents with rfl | ⟨e', rfl, hwf⟩
    · cases he
    · rw [List.mem_singleton.1 he]; exact hwf

/-- An edge from a state that meets the invariant, with what DEC's part answers. -/
theorem exists_stepAt {s : State c} (h : s.ok = true) :
    ∃ d events, s.dec.edge s.input (gotAt s.input s.dec.rdEn s.rb) = some (d, events) ∧
      stepAt s = .next (s.afterEdge d events) ∧ (s.afterEdge d events).ok = true := by
  obtain ⟨_, hdec, _, _⟩ := stateOk_iff.1 h
  obtain ⟨d, events, hedge, hd, hevents⟩ := exists_decEdge hdec s.input (gotAt s.input s.dec.rdEn s.rb)
  exact ⟨d, events, hedge, stepAt_of_decEdge hedge, afterEdge_ok h hd hevents⟩

theorem resetAt_ok (c : Nat) (hc : 0 < c) : (State.resetAt c hc).ok = true := by
  refine stateOk_iff.2 ⟨rbOk_of_not_full rfl rfl, cleared_decOk, ?_, fun e he => by cases he⟩
  have hsize : ((0 : Nat) == c) = false := beq_false_of_ne hc.ne
  simp [Ports.ok, State.resetAt, Ports.reset, strobes_none_atMostOne, hsize]

/-- Settles O58. -/
theorem everyCapacityStepsAndKeepsTheInvariant : Obligations.EveryCapacityStepsAndKeepsTheInvariant := by
  refine ⟨resetAt_ok, fun c s h => ?_⟩
  obtain ⟨d, events, _, hstep, hok⟩ := exists_stepAt h
  exact ⟨_, hstep, hok⟩

/-- Settles O4. -/
theorem okStatesAlwaysStep : Obligations.OkStatesAlwaysStep := by
  intro s h
  obtain ⟨d, events, _, hstep, _⟩ := exists_stepAt h
  exact ⟨_, (step_eq_stepAt s).trans hstep⟩

/-- Settles O3. -/
theorem stepKeepsTheInvariant : Obligations.StepKeepsTheInvariant := by
  intro s t h ht
  obtain ⟨d, events, _, hstep, hok⟩ := exists_stepAt h
  rw [step_eq_stepAt, hstep] at ht
  cases ht
  exact hok

/-! ### The output tables -/

/-- 43_top_cycle R166, the rows of Execute. -/
theorem executed_strobes {d d' : Dec} {e : Event} {inp : Inputs} (hok : d.ok = true) (hds : d.ds = .ex)
    (hrst : inp.rst = false) (h : d.executed d.typ = some (d', e)) : e.strobes = clockedStrobes inp d := by
  rcases (knownType_iff d.typ).1 ((decOk_iff_of_ex hds).1 hok).1.1 with htyp | htyp | htyp | htyp
  · rw [htyp] at h
    cases h
    simp [clockedStrobes, hrst, hds, htyp, Event.strobes, Strobes.none]
  · rw [htyp] at h
    cases h
    simp [clockedStrobes, hrst, hds, htyp, Event.strobes, Dec.operandA, Dec.operandB]
  · rw [htyp] at h
    cases h
    simp [clockedStrobes, hrst, hds, htyp, Event.strobes, Dec.operandD]
  · rw [htyp] at h
    cases h
    simp [clockedStrobes, hrst, hds, htyp, strobes_log_text hok hds htyp]

/-- Execute lasts one cycle. -/
theorem executed_ds_ne_ex {d d' : Dec} {t : Nibble} {e : Event} (h : d.executed t = some (d', e)) : d'.ds ≠ .ex := by
  rcases (executed_eq_some h).2 with rfl | ⟨_, rfl⟩ <;> exact DecState.noConfusion

/-- The events of DEC's part of an edge show on the ports as R165 and R166 list. -/
theorem decEdge_strobes {d d' : Dec} {inp : Inputs} {got : Option Byte} {events : List Event} (hok : d.ok = true)
    (h : d.edge inp got = some (d', events)) :
    (events.map Event.strobes).getLastD .none = clockedStrobes inp d ∧ (d.ds = .ex → d'.ds ≠ .ex) := by
  cases hrst : inp.rst with
  | true =>
    rw [decEdge_of_rst hrst] at h
    cases h
    exact ⟨by simp [clockedStrobes, hrst], fun _ => by decide⟩
  | false =>
    cases hds : d.ds with
    | ah =>
      have hnone : events = [] := by
        cases got with
        | none => rw [decEdge_of_ah_none hrst hds] at h; cases h; rfl
        | some b => rw [decEdge_of_ah_some hrst hds] at h; cases h; rfl
      exact ⟨by simp [clockedStrobes, hrst, hds, hnone], fun hex => by cases hex⟩
    | ap =>
      have hnone : events = [] := by
        cases got with
        | none => rw [decEdge_of_ap_none hrst hds] at h; cases h; rfl
        | some b =>
          rw [decEdge_of_ap_some hrst hds] at h
          split at h
          · cases h; rfl
          · cases h
      exact ⟨by simp [clockedStrobes, hrst, hds, hnone], fun hex => by cases hex⟩
    | ex =>
      obtain ⟨x, hx, h⟩ := Option.map_eq_some_iff.1 ((decEdge_of_ex hrst hds).symm.trans h)
      cases h
      exact ⟨executed_strobes hok hds hrst hx, fun _ => executed_ds_ne_ex hx⟩
    | dw =>
      refine ⟨?_, fun hex => by cases hex⟩
      cases hdone : inp.sleepDone with
      | false =>
        rw [decEdge_of_dw_idle hrst hds hdone] at h
        cases h
        simp [clockedStrobes, hrst, hds, hdone]
      | true =>
        rw [decEdge_of_dw_done hrst hds hdone] at h
        cases h
        simp [clockedStrobes, hrst, hds, hdone, Event.strobes, Dec.operandEcho, Strobes.none]

/-- Settles O7. -/
theorem strobesFollowR165AndR166 : Obligations.StrobesFollowR165AndR166 := by
  intro s h
  obtain ⟨d, events, hedge, hstep, _⟩ := exists_stepAt h
  obtain ⟨_, hdec, _, _⟩ := stateOk_iff.1 h
  obtain ⟨hstrobes, hex⟩ := decEdge_strobes hdec hedge
  exact ⟨_, (step_eq_stepAt s).trans hstep, hstrobes, hex⟩

end Sys2Proof.Machine
end

section
/-! PROOF. What single edges do: the header that is got and dispatched, the handler that is selected, `rst` and `clr`, inputs
that are not looked at, and the byte that an overflow loses. -/

namespace Sys2Proof.Machine

variable {c : Nat}

theorem step_of_decEdge {s : State} {d : Dec} {events : List Event}
    (h : s.dec.edge s.input (gotAt s.input s.dec.rdEn s.rb) = some (d, events)) :
    step s = .next (s.afterEdge d events) := (step_eq_stepAt s).trans (stepAt_of_decEdge h)

/-! ### The header and the handler -/

/-- 30_encoding R61 in numbers. -/
theorem header_fields_of_toNat {h : Byte} {t l : Nibble} (hsum : h.toNat = 16 * t.toNat + l.toNat) :
    headerType h = t ∧ headerLen h = l := by
  have hheader : h = header t l := by
    have hl := l.isLt
    refine BitVec.eq_of_toNat_eq ?_
    rw [header, BitVec.toNat_append, ← Nat.shiftLeft_add_eq_or_of_lt hl, Nat.shiftLeft_eq, hsum]
    omega
  rw [hheader, headerType_header, headerLen_header]
  exact ⟨rfl, rfl⟩

/-- 41_frame_decoder R122 as a table of the type code. -/
theorem dispatched_eq (d : Dec) (t l : Nibble) (e : Dec) (he : e = if knownType t then d.dispatch t l else d) :
    (t = 1 → e = { d with typ := 1, len := l, need := 0, idx := 0, ds := .ex }) ∧
    (t = 2 → e = { d with typ := 2, len := l, need := 4, idx := 0, ds := .ap }) ∧
    (t = 4 → e = { d with typ := 4, len := l, need := 3, idx := 0, ds := .ap }) ∧
    (t = 6 → e = { d with typ := 6, len := l, need := l, idx := 0, ds := if l = 0 then .ex else .ap }) ∧
    (t ≠ 1 → t ≠ 2 → t ≠ 4 → t ≠ 6 → e = d) := by
  subst he
  refine ⟨?_, ?_, ?_, ?_, fun h1 h2 h4 h6 => if_neg fun ht => ?_⟩
  · rintro rfl; rfl
  · rintro rfl; rfl
  · rintro rfl; rfl
  · rintro rfl; rfl
  · rcases (knownType_iff t).1 ht with h | h | h | h <;> contradiction

/-- Settles O18. -/
theorem headerIsDispatchedAtTheEdgeThatGetsIt : Obligations.HeaderIsDispatchedAtTheEdgeThatGetsIt := by
  intro s h t l hok hds hrst hclr hne hh hsum
  obtain ⟨_, hdec, _, _⟩ := stateOk_iff.1 hok
  obtain ⟨htype, hlen⟩ := header_fields_of_toNat hsum
  have hgot : gotAt s.input s.dec.rdEn s.rb = some h := by
    rw [gotAt_eq _ _ hrst hclr, if_pos (by simp [Dec.rdEn, hds]), get_of_not_empty s.rb hne, hh]
  have hedge := decEdge_of_ah_some (b := h) hrst hds
  rw [← hgot] at hedge
  refine ⟨fun i => ?_, s.afterEdge _ _, step_of_decEdge hedge, hgot, List.append_nil _, rfl,
    dispatched_eq s.dec t l _ (by rw [htype, hlen]; rfl)⟩
  rw [(decOk_iff_of_ah hds).1 hdec]
  exact cleared_pl i

/-- Settles O36. -/
theorem packetIsRoutedToOneHandler : Obligations.PacketIsRoutedToOneHandler := by
  refine ⟨fun d => ?_, fun d hok => ?_, fun s hok hrst hvalid => ?_⟩
  · simp [Dec.packet, CmdPacket.selEcho, CmdPacket.selAdd, CmdPacket.selDelay, CmdPacket.selLog]
  · cases hds : d.ds with
    | ex =>
      rcases (knownType_iff d.typ).1 ((decOk_iff_of_ex hds).1 hok).1.1 with h | h | h | h <;>
        simp [Dec.packet, CmdPacket.selEcho, CmdPacket.selAdd, CmdPacket.selDelay, CmdPacket.selLog, hds, h]
    | _ => simp [Dec.packet, CmdPacket.selEcho, CmdPacket.selAdd, CmdPacket.selDelay, CmdPacket.selLog, hds]
  · have hds : s.dec.ds = .ex := by simpa [Dec.packet] using hvalid
    obtain ⟨_, hdec, _, _⟩ := stateOk_iff.1 hok
    obtain ⟨d', e, hexec⟩ := exists_executed ((decOk_iff_of_ex hds).1 hdec).1.1 s.dec
    have hedge := decEdge_of_ex (got := gotAt s.input s.dec.rdEn s.rb) hrst hds
    rw [hexec, Option.map_some] at hedge
    have hsel : ∀ t, (s.dec.ds == .ex && s.dec.typ == t) = true → s.dec.executed t = some (d', e) := by
      intro t ht
      rw [← hexec, eq_of_beq (Bool.and_eq_true_iff.1 ht).2]
    refine ⟨_, e, step_of_decEdge hedge, rfl, fun h => ?_, fun h => ?_, fun h => ?_, fun h => ?_⟩
    · cases hsel 1 h
      rfl
    · cases hsel 2 h
      exact ⟨_, _, rfl, by rw [high_low_toNat, BitVec.toNat_add]⟩
    · cases hsel 4 h
      rfl
    · cases hsel 6 h
      rfl

/-! ### `rst` and `clr` -/

/-- Settles O37. -/
theorem resetEdgeAbandonsEverything : Obligations.ResetEdgeAbandonsEverything := fun s hrst =>
  ⟨_, step_of_decEdge (decEdge_of_rst hrst), clockedRb_of_rst _ s.rb hrst, rfl, List.append_nil _, gotAt_of_rst _ s.rb hrst,
    rfl⟩

/-- In Execute and in the Delay wait DEC asks for no byte, and looks at `sleep_done` alone. -/
theorem decEdge_of_not_awaiting {inp inp' : Inputs} (g g' : Option Byte) {d : Dec} (hds : d.ds = .ex ∨ d.ds = .dw)
    (hrst : inp.rst = inp'.rst) (hdone : inp.sleepDone = inp'.sleepDone) : d.edge inp g = d.edge inp' g' := by
  unfold Dec.edge
  rcases hds with hds | hds <;> simp only [hds, hrst, hdone]

/-- In AH and AP DEC holds while no byte is got. -/
theorem decEdge_of_awaiting_none {inp : Inputs} {d : Dec} (hds : d.ds = .ah ∨ d.ds = .ap) (hrst : inp.rst = false) :
    d.edge inp none = some (d, []) := by
  rcases hds with hds | hds
  · exact decEdge_of_ah_none hrst hds
  · exact decEdge_of_ap_none hrst hds

/-- Settles O38. -/
theorem clearEdgeLeavesDecoder : Obligations.ClearEdgeLeavesDecoder := by
  intro s i rest hok henv hrst hclr
  obtain rfl : s.input = i := input_of_cons s i rest henv
  obtain ⟨d, events, hedge, hstep, _⟩ := exists_stepAt hok
  have hgot := gotAt_of_clr s.dec.rdEn s.rb hclr
  have hrb := clockedRb_of_clr s.dec.rdEn s.rb hrst hclr
  refine ⟨s.afterEdge d events, (step_eq_stepAt s).trans hstep, ?_⟩
  simp only [State.afterEdge, hrb, hgot]
  refine ⟨clear_head _, clear_tail _, clear_full _, clear_buf _, trivial, fun hds => ?_, fun hds => ?_⟩
  · rw [hgot, decEdge_of_awaiting_none hds hrst] at hedge
    cases hedge
    exact ⟨rfl, List.append_nil _⟩
  · have hedge' := (decEdge_of_not_awaiting _ (gotAt { s.input with clr := false } s.dec.rdEn s.rb) hds
      (inp' := { s.input with clr := false }) rfl rfl).symm.trans hedge
    exact ⟨_, step_of_decEdge (s := { s with env := { s.input with clr := false } :: rest }) hedge', rfl, rfl, rfl⟩

/-! ### Inputs that are not looked at -/

/-- The step depends on the inputs only through RB's part, the byte got and DEC's part. -/
theorem step_withEnv_congr {s : State} {i j : Inputs} {rest : List Inputs} (henv : s.env = i :: rest)
    (hrb : clockedRb j s.dec.rdEn s.rb = clockedRb i s.dec.rdEn s.rb)
    (hgot : gotAt j s.dec.rdEn s.rb = gotAt i s.dec.rdEn s.rb)
    (hdec : ∀ g, s.dec.edge j g = s.dec.edge i g) :
    step { s with env := j :: rest } = step s := by
  have hi := input_of_cons s i rest henv
  rw [step_eq_stepAt, step_eq_stepAt, stepAt_eq_outcome, stepAt_eq_outcome]
  change State.outcome _ (s.dec.edge j (gotAt j s.dec.rdEn s.rb)) = _
  rw [hgot, hdec, hi]
  cases s.dec.edge i (gotAt i s.dec.rdEn s.rb) with
  | none => rfl
  | some x =>
    refine congrArg Host.Outcome.next (State.eq_of_fields ?_ rfl ?_ rfl rfl ?_)
    · exact hrb.trans (by rw [← hi]; rfl)
    · exact hgot.trans (by rw [← hi]; rfl)
    · change rest = s.env.tail
      rw [henv, List.tail_cons]

theorem clockedRb_of_no_wrEn {inp : Inputs} {rdEn : Bool} {r : Rb c} (hwr : inp.wrEn = false) :
    clockedRb inp rdEn r =
      if inp.rst then r.init else if inp.clr then r.clear else if fire inp rdEn r then r.advance else r := by
  simp only [clockedRb, hwr, Bool.false_eq_true, if_false]

/-- Settles O40. -/
theorem ignoredInputsHaveNoEffect : Obligations.IgnoredInputsHaveNoEffect := by
  intro s i rest henv
  refine ⟨fun hds v => step_withEnv_congr henv rfl rfl fun g => ?_, fun hwr v => step_withEnv_congr henv ?_ rfl fun g => rfl,
    fun hrst j => step_withEnv_congr henv ?_ ?_ fun g => ?_⟩
  · cases h : s.dec.ds with
    | dw => exact absurd h hds
    | _ => simp only [Dec.edge, h]
  · exact (clockedRb_of_no_wrEn (inp := { i with wrData := v }) hwr).trans (clockedRb_of_no_wrEn hwr).symm
  · rw [clockedRb_of_rst _ _ hrst, clockedRb_of_rst _ _ rfl]
  · rw [gotAt_of_rst _ _ hrst, gotAt_of_rst _ _ rfl]
  · rw [decEdge_of_rst hrst, decEdge_of_rst rfl]

/-! ### The unread bytes over one edge -/

/-- The bytes that an edge puts. -/
def Inputs.putByte (inp : Inputs) : List Byte := if inp.wrEn then [inp.wrData] else []

/-- The condition of 60_exceptions R181 at an edge without `rst` and `clr`. -/
theorem overflow_mem_conditions_iff {s : State c} (hrst : s.input.rst = false) (hclr : s.input.clr = false) :
    Condition.overflow ∈ s.conditions ↔
      s.input.wrEn = true ∧ s.rb.full = true ∧ fire s.input s.dec.rdEn s.rb = false := by
  simp only [State.conditions, hrst, hclr]
  split_ifs <;> simp_all

/-- A PUT on a full queue that no GET relieves loses the oldest byte (60_exceptions R181). -/
theorem contents_clockedRb_of_overflow {inp : Inputs} {rdEn : Bool} {r : Rb c} (h : r.ok = true) (hrst : inp.rst = false)
    (hclr : inp.clr = false) (hwr : inp.wrEn = true) (hfull : r.full = true) (hfire : fire inp rdEn r = false) :
    (clockedRb inp rdEn r).contents = r.contents.drop 1 ++ [inp.wrData] := by
  simp only [clockedRb, hrst, hclr, hwr, hfire, Bool.false_eq_true, if_false, if_true]
  exact contents_put_of_full h hfull _

/-- Every other edge loses nothing. -/
theorem got_append_contents_clockedRb {inp : Inputs} {rdEn : Bool} {r : Rb c} (h : r.ok = true) (hrst : inp.rst = false)
    (hclr : inp.clr = false) (hno : ¬ (inp.wrEn = true ∧ r.full = true ∧ fire inp rdEn r = false)) :
    (gotAt inp rdEn r).toList ++ (clockedRb inp rdEn r).contents = r.contents ++ inp.putByte := by
  simp only [clockedRb, hrst, hclr, Bool.false_eq_true, if_false, gotAt, Inputs.putByte]
  cases hfire : fire inp rdEn r with
  | true =>
    have hne : r.isEmpty = false := by
      cases hempty : r.isEmpty with
      | true => simp [fire, hempty] at hfire
      | false => rfl
    have hcons := contents_eq_cons h hne
    cases hwr : inp.wrEn with
    | true => simp [contents_put_of_lt (advance_ok h) (size_advance_lt h hne), hcons]
    | false => simp [hcons]
  | false =>
    cases hwr : inp.wrEn with
    | true =>
      have hlt : r.size < c := by
        by_contra hge
        exact hno ⟨hwr, full_of_size_not_lt hge, hfire⟩
      simp [contents_put_of_lt h hlt]
    | false => simp

/-- Settles O48. -/
theorem overflowLosesExactlyTheOldestByte : Obligations.OverflowLosesExactlyTheOldestByte := by
  intro s hok hrst hclr
  obtain ⟨hrb, _, _, _⟩ := stateOk_iff.1 hok
  obtain ⟨d, events, _, hstep, _⟩ := exists_stepAt hok
  rw [overflow_mem_conditions_iff hrst hclr]
  refine ⟨_, (step_eq_stepAt s).trans hstep, fun ⟨hwr, hfull, hfire⟩ => ⟨?_, ?_, ?_⟩, fun hno => ?_⟩
  · simp [State.afterEdge, gotAt, hfire]
  · rw [length_contents, size_of_full _ hfull]
  · exact contents_clockedRb_of_overflow hrb hrst hclr hwr hfull hfire
  · exact got_append_contents_clockedRb hrb hrst hclr hno

end Sys2Proof.Machine
end

section
/-! PROOF. Runs: no run from a state of the invariant stops, waits hold what they hold, and the bytes got come in put order
(20_memory R51). Each is an induction over the number of edges from what one edge does. -/

namespace Sys2Proof.Machine

/-! ### One edge more -/

/-- The packet that DEC presents in its state, none outside EX. -/
def Dec.presented (d : Dec) : List Packet := if d.ds = .ex then [d.payloadPacket] else []

theorem presented_of_ex {d : Dec} (h : d.ds = .ex) : d.presented = [d.payloadPacket] := if_pos h

theorem presented_of_not_ex {d : Dec} (h : d.ds ≠ .ex) : d.presented = [] := if_neg h

theorem observe_zero (s : State) : observe 0 s = some (s, [], []) := rfl

theorem observe_succ {n : Nat} {s t u : State} {got : List Byte} {packets : List Packet} (hstep : step s = .next t)
    (h : observe n t = some (u, got, packets)) :
    observe (n + 1) s = some (u, t.got.toList ++ got, t.dec.presented ++ packets) := by
  rw [observe, hstep]
  simp only [h, Option.map_some]
  rfl

section Env

variable {s : State} {n : Nat}

/-- What holds of the first inputs of a run, and of an idle edge, holds of the next edge's and of the later ones. -/
theorem input_of_take_succ {p : Inputs → Prop} (hidle : p .idle) (h : ∀ i ∈ s.env.take (n + 1), p i) :
    p s.input ∧ ∀ i ∈ s.env.tail.take n, p i := by
  cases henv : s.env with
  | nil =>
    rw [input_of_nil s henv]
    exact ⟨hidle, by simp⟩
  | cons i rest =>
    rw [henv, List.take_succ_cons, List.forall_mem_cons] at h
    rw [input_of_cons s i rest henv]
    exact h

/-- The bytes put at the next edge, then those put later. -/
theorem putBytes_take_succ : putBytes (s.env.take (n + 1)) = s.input.putByte ++ putBytes (s.env.tail.take n) := by
  cases henv : s.env with
  | nil =>
    rw [input_of_nil s henv, List.tail_nil, List.take_nil, List.take_nil]
    rfl
  | cons i rest =>
    rw [input_of_cons s i rest henv, List.take_succ_cons, List.tail_cons]
    cases h : i.wrEn <;> simp [putBytes, Inputs.putByte, h]

end Env

/-! ### No run stops -/

theorem exists_observe {s : State} (h : s.ok = true) (n : Nat) :
    ∃ t got packets, observe n s = some (t, got, packets) ∧ t.ok = true := by
  induction n generalizing s with
  | zero => exact ⟨s, [], [], observe_zero s, h⟩
  | succ n ih =>
    obtain ⟨d, events, hedge, _, hok⟩ := exists_stepAt h
    obtain ⟨t, got, packets, hrun, ht⟩ := ih hok
    exact ⟨t, _, _, observe_succ (step_of_decEdge hedge) hrun, ht⟩

/-- Settles O5. -/
theorem runsFromResetNeverStop : Obligations.RunsFromResetNeverStop := fun env n =>
  exists_observe (s := { State.reset with env := env }) resetStateIsOk n

/-! ### Waits -/

/-- A property that makes DEC hold and get nothing at an edge, and that the edge keeps, makes DEC hold for every number of
edges. -/
theorem observe_of_hold {q : State → Prop} {p : Inputs → Prop} (hidle : p .idle)
    (hhold : ∀ s, q s → p s.input →
      s.dec.ds ≠ .ex ∧ gotAt s.input s.dec.rdEn s.rb = none ∧ s.dec.edge s.input none = some (s.dec, []) ∧
        q (s.afterEdge s.dec []))
    (n : Nat) {s : State} (hq : q s) (hp : ∀ i ∈ s.env.take n, p i) :
    ∃ t, observe n s = some (t, [], []) ∧ t.dec = s.dec ∧ t.trace = s.trace ∧ q t := by
  induction n generalizing s with
  | zero => exact ⟨s, observe_zero s, rfl, rfl, hq⟩
  | succ n ih =>
    obtain ⟨hnow, hlater⟩ := input_of_take_succ hidle hp
    obtain ⟨hds, hgot, hedge, hq'⟩ := hhold s hq hnow
    obtain ⟨t, hrun, hdec, htrace, ht⟩ := ih hq' hlater
    have hrun' := observe_succ (step_of_decEdge (hgot.symm ▸ hedge)) hrun
    rw [show (s.afterEdge s.dec []).got = none from hgot, presented_of_not_ex (show (s.afterEdge s.dec []).dec.ds ≠ .ex from hds)]
      at hrun'
    exact ⟨t, hrun', hdec, htrace.trans (List.append_nil _), ht⟩

theorem rdEn_iff (d : Dec) : d.rdEn = true ↔ d.ds = .ah ∨ d.ds = .ap := by simp [Dec.rdEn]

theorem rdEn_of_dw {d : Dec} (h : d.ds = .dw) : d.rdEn = false := by simp [Dec.rdEn, h]

theorem rdEn_of_ex {d : Dec} (h : d.ds = .ex) : d.rdEn = false := by simp [Dec.rdEn, h]

/-- Without `rd_en` an edge puts what the producer asks for and nothing else. -/
theorem clockedRb_of_no_rdEn {c : Nat} {inp : Inputs} (r : Rb c) (hrst : inp.rst = false) (hclr : inp.clr = false) :
    clockedRb inp false r = inp.putByte.foldl Rb.put r := by
  rw [clockedRb_eq _ _ hrst hclr]
  cases h : inp.wrEn <;> simp [Inputs.putByte, h]

/-- Settles O41. -/
theorem delayWaitHoldsTheConsumer : Obligations.DelayWaitHoldsTheConsumer := by
  intro n s hwait hinputs
  induction n generalizing s with
  | zero => exact ⟨s, observe_zero s, rfl, rfl, fun _ => rfl⟩
  | succ n ih =>
    have hds : s.dec.ds = .dw := by simpa [State.delayWait] using hwait
    obtain ⟨⟨hrst, hdone⟩, hlater⟩ := input_of_take_succ ⟨rfl, rfl⟩ hinputs
    have hgot : gotAt s.input s.dec.rdEn s.rb = none := by rw [rdEn_of_dw hds, gotAt_of_no_rdEn]
    have hedge := decEdge_of_dw_idle (got := gotAt s.input s.dec.rdEn s.rb) hrst hds hdone
    obtain ⟨t, hrun, hdec, htrace, hrb⟩ := ih (s.afterEdge s.dec []) hwait hlater
    have hrun' := observe_succ (step_of_decEdge hedge) hrun
    rw [show (s.afterEdge s.dec []).got = none from hgot,
      presented_of_not_ex (show (s.afterEdge s.dec []).dec.ds ≠ .ex by simp [State.afterEdge, hds])] at hrun'
    refine ⟨t, hrun', hdec, htrace.trans (List.append_nil _), fun hclrs => ?_⟩
    obtain ⟨hclr, hclrs'⟩ := input_of_take_succ (p := fun i => i.clr = false) rfl hclrs
    rw [hrb hclrs', putBytes_take_succ, List.foldl_append, ← clockedRb_of_no_rdEn s.rb hrst hclr, ← rdEn_of_dw hds]
    rfl

/-- An empty queue into which nothing is put stays empty, and its storage stays. -/
theorem clockedRb_of_empty {c : Nat} {inp : Inputs} (rdEn : Bool) {r : Rb c} (hrst : inp.rst = false)
    (hwr : inp.wrEn = false) (hempty : r.isEmpty = true) :
    (clockedRb inp rdEn r).isEmpty = true ∧ (clockedRb inp rdEn r).buf = r.buf ∧
      (inp.clr = false → clockedRb inp rdEn r = r) := by
  cases hclr : inp.clr with
  | true =>
    rw [clockedRb_of_clr _ _ hrst hclr]
    exact ⟨clear_isEmpty, clear_buf r, fun h => by cases h⟩
  | false =>
    have hsame : clockedRb inp rdEn r = r := by
      rw [clockedRb_eq _ _ hrst hclr, hwr, get_of_empty r hempty]
      simp
    rw [hsame]
    exact ⟨hempty, rfl, fun _ => rfl⟩

/-- Settles O42. -/
theorem blockedGetHolds : Obligations.BlockedGetHolds := by
  intro n s hblocked hinputs
  have hhold : ∀ u : State, (u.blockedGet = true ∧ u.rb.buf = s.rb.buf) → (u.input.rst = false ∧ u.input.wrEn = false) →
      u.dec.ds ≠ .ex ∧ gotAt u.input u.dec.rdEn u.rb = none ∧ u.dec.edge u.input none = some (u.dec, []) ∧
        ((u.afterEdge u.dec []).blockedGet = true ∧ (u.afterEdge u.dec []).rb.buf = s.rb.buf) := by
    rintro u ⟨hu, hbuf⟩ ⟨hrst, hwr⟩
    obtain ⟨hrd, hempty⟩ := Bool.and_eq_true_iff.1 hu
    obtain ⟨hempty', hbuf', _⟩ := clockedRb_of_empty u.dec.rdEn hrst hwr hempty
    exact ⟨fun hds => by simp [rdEn_of_ex hds] at hrd, gotAt_of_empty _ _ hempty,
      decEdge_of_awaiting_none ((rdEn_iff _).1 hrd) hrst, Bool.and_eq_true_iff.2 ⟨hrd, hempty'⟩, hbuf'.trans hbuf⟩
  obtain ⟨t, hrun, hdec, htrace, ht, hbuf⟩ :=
    observe_of_hold (p := fun i => i.rst = false ∧ i.wrEn = false) ⟨rfl, rfl⟩ hhold n ⟨hblocked, rfl⟩ hinputs
  exact ⟨t, hrun, hdec, htrace, (Bool.and_eq_true_iff.1 ht).2, hbuf⟩

theorem quiescent_iff {c : Nat} {s : State c} :
    s.quiescent = true ↔ s.dec.ds = .ah ∧ s.rb.isEmpty = true ∧
      ∀ i ∈ s.env, i.rst = false ∧ i.clr = false ∧ i.wrEn = false ∧ i.sleepDone = false := by
  simp [State.quiescent, and_assoc]

/-- Settles O43. -/
theorem quiescentStaysQuiescent : Obligations.QuiescentStaysQuiescent := by
  intro n s hquiescent
  have hhold : ∀ u : State, (u.quiescent = true ∧ u.rb = s.rb) → True →
      u.dec.ds ≠ .ex ∧ gotAt u.input u.dec.rdEn u.rb = none ∧ u.dec.edge u.input none = some (u.dec, []) ∧
        ((u.afterEdge u.dec []).quiescent = true ∧ (u.afterEdge u.dec []).rb = s.rb) := by
    rintro u ⟨hu, hrb⟩ -
    obtain ⟨hds, hempty, henv⟩ := quiescent_iff.1 hu
    obtain ⟨⟨hrst, hclr, hwr, _⟩, _⟩ := input_of_take_succ (n := 0) ⟨rfl, rfl, rfl, rfl⟩
      fun i hi => henv i (List.mem_of_mem_take hi)
    have hsame := (clockedRb_of_empty u.dec.rdEn hrst hwr hempty).2.2 hclr
    refine ⟨by simp [hds], gotAt_of_empty _ _ hempty, decEdge_of_ah_none hrst hds, quiescent_iff.2 ⟨hds, ?_, ?_⟩,
      hsame.trans hrb⟩
    · exact (congrArg Rb.isEmpty hsame).trans hempty
    · exact fun i hi => henv i (List.mem_of_mem_tail hi)
  obtain ⟨t, hrun, hdec, htrace, ht, hrb⟩ :=
    observe_of_hold (p := fun _ => True) trivial hhold n ⟨hquiescent, rfl⟩ fun _ _ => trivial
  exact ⟨t, hrun, ht, hrb, hdec, htrace⟩

/-! ### Put order -/

section PutOrder

variable {s t : State}

/-- Whatever an edge does, the bytes got and unread are a part of those there were, and the unread ones the newest. -/
theorem contents_of_edge (hok : s.ok = true) (hrst : s.input.rst = false) (hclr : s.input.clr = false)
    (ht : step s = .next t) :
    (t.got.toList ++ t.rb.contents).Sublist (s.rb.contents ++ s.input.putByte) ∧
    t.rb.contents <:+ s.rb.contents ++ s.input.putByte ∧
    (Condition.overflow ∉ s.conditions → t.got.toList ++ t.rb.contents = s.rb.contents ++ s.input.putByte) ∧
    ((s.rb.contents ++ s.input.putByte).length ≤ 200 → Condition.overflow ∉ s.conditions) := by
  obtain ⟨u, hu, hlost, hkept⟩ := overflowLosesExactlyTheOldestByte s hok hrst hclr
  rw [ht] at hu
  cases hu
  by_cases hover : Condition.overflow ∈ s.conditions
  · obtain ⟨hgot, hlen, hcontents⟩ := hlost hover
    have hput : s.input.putByte = [s.input.wrData] := if_pos ((overflow_mem_conditions_iff hrst hclr).1 hover).1
    rw [hgot, hcontents, hput]
    have hsuffix : s.rb.contents.drop 1 ++ [s.input.wrData] <:+ s.rb.contents ++ [s.input.wrData] :=
      ⟨s.rb.contents.take 1, by rw [← List.append_assoc, List.take_append_drop]⟩
    refine ⟨hsuffix.sublist, hsuffix, fun h => absurd hover h, fun hle => ?_⟩
    rw [List.length_append, hlen] at hle
    exact absurd hle (by simp)
  · have hall := hkept hover
    change _ = s.rb.contents ++ s.input.putByte at hall
    exact ⟨hall ▸ List.Sublist.refl _, ⟨_, hall⟩, fun _ => hall, fun _ => hover⟩

end PutOrder

theorem neverOverflows_succ {s t : State} {n : Nat} (hstep : step s = .next t) (h : neverOverflows (n + 1) s = true) :
    Condition.overflow ∉ s.conditions ∧ neverOverflows n t = true := by
  rw [neverOverflows, hstep] at h
  simpa using h

/-- Settles O44. -/
theorem gotBytesFollowPutOrder : Obligations.GotBytesFollowPutOrder := by
  intro n s hok hinputs
  induction n generalizing s with
  | zero =>
    exact ⟨s, [], [], observe_zero s, by simp [putBytes], by simp [putBytes], fun _ => by simp [putBytes],
      fun _ => by simp [putBytes]⟩
  | succ n ih =>
    obtain ⟨⟨hrst, hclr⟩, hlater⟩ := input_of_take_succ (p := fun i => i.rst = false ∧ i.clr = false) ⟨rfl, rfl⟩ hinputs
    obtain ⟨d, events, hedge, _, hok'⟩ := exists_stepAt hok
    have hstep := step_of_decEdge hedge
    obtain ⟨hsub, hsuf, hall, hfits⟩ := contents_of_edge hok hrst hclr hstep
    obtain ⟨t, got, packets, hrun, ihsub, ihsuf, ihall, ihfits⟩ := ih _ hok' hlater
    have hkept : Condition.overflow ∉ s.conditions →
        got ++ t.rb.contents = (s.afterEdge d events).rb.contents ++ putBytes (s.env.tail.take n) →
        (s.afterEdge d events).got.toList ++ got ++ t.rb.contents =
          s.rb.contents ++ s.input.putByte ++ putBytes (s.env.tail.take n) := fun hno heq => by
      rw [List.append_assoc, heq, ← List.append_assoc, hall hno]
    rw [putBytes_take_succ, ← List.append_assoc]
    refine ⟨t, _, _, observe_succ hstep hrun, ?_, ?_, fun hnever => ?_, fun hle => ?_⟩
    · rw [List.append_assoc]
      refine (List.Sublist.append_left ihsub _).trans ?_
      rw [← List.append_assoc]
      exact hsub.append_right _
    · obtain ⟨old, hold⟩ := hsuf
      exact ihsuf.trans ⟨old, by rw [← hold, List.append_assoc]; rfl⟩
    · obtain ⟨hno, hnever'⟩ := neverOverflows_succ hstep hnever
      exact hkept hno (ihall hnever')
    · have hno := hfits ((List.length_append ▸ hle).trans' (Nat.le_add_right _ _))
      refine hkept hno (ihfits ?_)
      have hlen := congrArg List.length (hall hno)
      rw [List.length_append] at hlen hle ⊢
      change _ + (putBytes (s.env.tail.take n)).length ≤ 200
      omega

end Sys2Proof.Machine
end

section
/-! PROOF. Encodings (30_encoding): frames, the parser's packets of them, instruction words, opcode rows, assembler lines. -/

namespace Sys2Proof

open Sys2Proof.Machine

/-! ### Frames -/

/-- A 16-bit field is its two bytes, high byte first (30_encoding R66). -/
theorem be16_high_low (v : Half) : be16 (highByte v) (lowByte v) = v := by
  refine BitVec.eq_of_toNat_eq ?_
  rw [be16_toNat, Nat.mul_comm, high_low_toNat]

/-- A text that fits the length field is as long as the field says (30_encoding R67). -/
theorem logLen_toNat {text : List Byte} (h : text.length ≤ 15) : (BitVec.ofNat 4 text.length).toNat = text.length := by
  rw [BitVec.toNat_ofNat, Nat.mod_eq_of_lt (by omega)]

theorem unknown_wf_iff (t l : Nibble) : (Frame.unknown t l).wf = true ↔ knownType t = false := by simp [Frame.wf]

theorem log_wf_iff (text : List Byte) : (Frame.log text).wf = true ↔ text.length ≤ 15 := by simp [Frame.wf]

/-- Settles O49. -/
theorem frameDecodesFromItsBytes : Obligations.FrameDecodesFromItsBytes := by
  intro f rest hwf
  cases f with
  | echo l => simp [encodeFrame, decodeFrame]
  | add l a b => simp [encodeFrame, decodeFrame, be16_high_low]
  | delay l d e => simp [encodeFrame, decodeFrame, be16_high_low]
  | log text =>
    have hlen := logLen_toNat ((log_wf_iff text).1 hwf)
    simp [encodeFrame, decodeFrame, hlen, -BitVec.toNat_ofNat]
  | unknown t l =>
    obtain ⟨h1, h2, h4, h6⟩ := (unassigned_iff t).1 ((unknown_wf_iff t l).1 hwf)
    simp only [encodeFrame, decodeFrame, List.cons_append, List.nil_append, headerType_header, headerLen_header, h1, h2, h4,
      h6, if_false]

/-- The parser takes the header of a known command and as many bytes as its payload has. -/
theorem parse_known {t l : Nibble} {payload : List Byte} (ht : knownType t = true)
    (hlen : payload.length = (plen t l).toNat) (rest : List Byte) :
    parse (header t l :: payload ++ rest) = ⟨t, l, payload⟩ :: parse rest := by
  rw [List.cons_append, parse_header]
  simp [ht, ← hlen]

/-- The parser skips the header of an unassigned type code (41_frame_decoder R126). -/
theorem parse_unassigned {h : Byte} (ht : knownType (headerType h) = false) (rest : List Byte) :
    parse (h :: rest) = parse rest := by
  rw [parse_header]
  simp [ht]

/-- Settles O50. -/
theorem parserReadsEncodedFrames : Obligations.ParserReadsEncodedFrames := by
  intro f rest hwf
  cases f with
  | echo l => exact parse_known (payload := []) rfl rfl rest
  | add l a b => exact parse_known (payload := [_, _, _, _]) rfl rfl rest
  | delay l d e => exact parse_known (payload := [_, _, _]) rfl rfl rest
  | log text => exact parse_known rfl (logLen_toNat ((log_wf_iff text).1 hwf)).symm rest
  | unknown t l => exact parse_unassigned (by rw [headerType_header]; exact (unknown_wf_iff t l).1 hwf) rest

/-! ### Instruction words -/

/-- The command of a header byte has that byte as its word. -/
theorem encode_decodeHeader (h : Byte) : encode (decodeHeader h) = some (.hdr h) := by
  revert h; decide

theorem decodeHeader_of_encode {i : Instr} (hfmt : i.format = .hdr) {e : Encoded} (h : encode i = some e) :
    decode e = i := by
  obtain ⟨t, l, rfl⟩ := exists_decodeHeader_eq hfmt
  rw [encode_decodeHeader] at h
  cases h
  rfl

theorem decodeCtl_ctlWord (rst clr wrEn rdEn : Bool) (data : Byte) :
    decodeCtl (ctlWord rst clr wrEn rdEn) data =
      if rst then .init clr wrEn rdEn
      else if clr then .reset wrEn rdEn
      else if wrEn then (if rdEn then .putGet data else .put data)
      else if rdEn then .get else .nop :=
  ctlInstr_eq { rst := rst, clr := clr, wrEn := wrEn, wrData := data, sleepDone := false } rdEn

/-- A word selects an instruction unless it is a query (30_encoding R74). -/
theorem exists_encode_iff (i : Instr) : i.selectable = true ↔ ∃ e, encode i = some e := by
  cases i with
  | isEmpty | isFull | size | peek => exact iff_of_false (by decide) fun ⟨_, h⟩ => by cases h
  | _ => exact iff_of_true rfl ⟨_, rfl⟩

/-- Settles O51. -/
theorem instructionDecodesFromItsWord : Obligations.InstructionDecodesFromItsWord := by
  refine ⟨fun i e h => ?_, exists_encode_iff, encode_decodeHeader⟩
  cases hfmt : i.format with
  | hdr => exact decodeHeader_of_encode hfmt h
  | status => exact absurd ((exists_encode_iff i).2 ⟨e, h⟩) (by simp [Instr.selectable, hfmt])
  | ctl =>
    cases i with
    | init clr wrEn rdEn => cases h; exact decodeCtl_ctlWord true clr wrEn rdEn 0
    | reset wrEn rdEn => cases h; exact decodeCtl_ctlWord false true wrEn rdEn 0
    | nop => cases h; rfl
    | get => cases h; rfl
    | put b => cases h; rfl
    | putGet b => cases h; rfl
    | _ => cases hfmt

/-- Settles O53. -/
theorem writtenOutWordsDecode : Obligations.WrittenOutWordsDecode := by
  unfold Obligations.WrittenOutWordsDecode
  decide

/-! ### Opcode rows -/

/-- The row of a header is its type code in the high nibble (30_encoding R69). -/
theorem row_decodeHeader (h : Byte) : (decodeHeader h).row = ⟨16 * (headerType h).toNat, 0xF0⟩ := by
  revert h; decide

theorem decodeHeader_format (h : Byte) : (decodeHeader h).format = .hdr := by revert h; decide

theorem header_and_mask (h : Byte) : h.toNat &&& 0xF0 = 16 * (headerType h).toNat := by
  revert h; decide

/-- A header byte agrees with the row of its own type code alone. -/
theorem header_agrees_iff (h h' : Byte) :
    h.toNat &&& (decodeHeader h').row.mask = (decodeHeader h').row.value ↔
      (decodeHeader h').row = (decodeHeader h).row := by
  rw [row_decodeHeader, row_decodeHeader, header_and_mask, Row.mk.injEq, and_iff_left rfl, eq_comm]

/-- The row of a control word does not depend on `wr_data`. -/
theorem row_decodeCtl (w : Nibble) (data : Byte) :
    (decodeCtl w data).row = (decodeCtl w 0).row ∧ (decodeCtl w data).format = .ctl := by
  unfold decodeCtl
  split_ifs <;> exact ⟨rfl, rfl⟩

/-- The six rows of the port operations (30_encoding R74). -/
theorem ctl_agrees_iff (w : Nibble) :
    ∀ r ∈ [(⟨0x8, 0x8⟩ : Row), ⟨0x4, 0xC⟩, ⟨0x0, 0xF⟩, ⟨0x1, 0xF⟩, ⟨0x2, 0xF⟩, ⟨0x3, 0xF⟩],
      w.toNat &&& r.mask = r.value ↔ r = (decodeCtl w 0).row := by
  revert w; decide

theorem row_mem_of_ctl {i : Instr} (h : i.format = .ctl) :
    i.row ∈ [(⟨0x8, 0x8⟩ : Row), ⟨0x4, 0xC⟩, ⟨0x0, 0xF⟩, ⟨0x1, 0xF⟩, ⟨0x2, 0xF⟩, ⟨0x3, 0xF⟩] := by
  cases i with
  | init | reset | nop | get | put | putGet => simp [Instr.row]
  | _ => cases h

/-- Settles O52. -/
theorem opcodeRowsPartitionTheWords : Obligations.OpcodeRowsPartitionTheWords := by
  refine ⟨fun h => ⟨decodeHeader_format h, fun i hfmt => ?_⟩, fun w data => ⟨(row_decodeCtl w data).2, fun i hfmt => ?_⟩⟩
  · obtain ⟨t, l, rfl⟩ := exists_decodeHeader_eq hfmt
    exact header_agrees_iff h (header t l)
  · rw [(row_decodeCtl w data).1]
    exact ctl_agrees_iff w i.row (row_mem_of_ctl hfmt)

/-! ### The assembler -/

theorem decodeFrame_encodeFrame {f : Frame} (hwf : f.wf = true) : decodeFrame (encodeFrame f) = .ok (f, []) := by
  simpa using frameDecodesFromItsBytes f [] hwf

theorem assembleLog_of_le {bs : List Byte} (h : bs.length ≤ 15) : assembleLog bs = .ok (encodeFrame (.log bs)) := if_pos h

theorem assembleLog_of_lt {bs : List Byte} (h : ¬ bs.length ≤ 15) : assembleLog bs = .error .logTooLong := if_neg h

/-- Settles O54. -/
theorem assemblerAcceptsWellFormedLines : Obligations.AssemblerAcceptsWellFormedLines := by
  intro line
  cases line with
  | echo => exact ⟨fun _ => ⟨_, rfl, rfl⟩, fun h => by cases h⟩
  | add a b => exact ⟨fun _ => ⟨_, rfl, decodeFrame_encodeFrame rfl⟩, fun h => by cases h⟩
  | delay d e => exact ⟨fun _ => ⟨_, rfl, decodeFrame_encodeFrame rfl⟩, fun h => by cases h⟩
  | byte v => exact ⟨fun _ => ⟨_, rfl, rfl⟩, fun h => by cases h⟩
  | logBytes bs =>
    simp only [Line.wf, decide_eq_true_eq, decide_eq_false_iff_not]
    exact ⟨fun h => ⟨_, assembleLog_of_le h, decodeFrame_encodeFrame ((log_wf_iff bs).2 h)⟩,
      fun h => ⟨_, assembleLog_of_lt h⟩⟩
  | logText cs =>
    have hlen : (cs.map fun ch => BitVec.ofNat 8 ch.toNat).length = cs.length := List.length_map _
    cases hascii : cs.all (fun ch => decide (ch.toNat < 128)) with
    | false => exact ⟨fun h => by simp [Line.wf, hascii] at h, fun _ => ⟨.notAscii, by simp only [assemble, hascii]; rfl⟩⟩
    | true =>
      have hasm : assemble (.logText cs) = assembleLog (cs.map fun ch => BitVec.ofNat 8 ch.toNat) := by
        simp only [assemble, hascii, if_true]
      simp only [Line.wf, hascii, Bool.and_true, decide_eq_true_eq, decide_eq_false_iff_not, hasm, ← hlen]
      exact ⟨fun h => ⟨_, assembleLog_of_le h, decodeFrame_encodeFrame ((log_wf_iff _).2 h)⟩,
        fun h => ⟨_, assembleLog_of_lt h⟩⟩
  | unknown t =>
    cases ht : knownType t with
    | true => exact ⟨fun h => by simp [Line.wf, ht] at h, fun _ => ⟨.assignedType, by simp [assemble, ht]⟩⟩
    | false =>
      exact ⟨fun _ => ⟨_, by simp only [assemble, ht]; rfl, decodeFrame_encodeFrame ((unknown_wf_iff t 0).2 ht)⟩,
        fun h => by simp [Line.wf, ht] at h⟩

end Sys2Proof
end

section
/-! PROOF. Runs against the parser (41_frame_decoder R131). DEC's registers stand for the bytes of the frame that it has begun
and for the events that it still owes; with these two an edge is one step of the parser. -/

namespace Sys2Proof.Machine

/-! ### What DEC's registers stand for -/

/-- The bytes of the frame in progress that were got so far. -/
def Dec.pending (d : Dec) : List Byte :=
  if d.ds = .ap then header d.typ d.len :: d.pl.toList.take d.idx.toNat else []

/-- The events of the packet presented that are not emitted yet. -/
def Dec.owed (d : Dec) : List Event :=
  match d.ds with
  | .ah | .ap => []
  | .ex => packetEvents d.payloadPacket
  | .dw => [.send [0x51, d.operandEcho]]

section Registers

variable {d : Dec}

theorem pending_of_ap (h : d.ds = .ap) : d.pending = header d.typ d.len :: d.pl.toList.take d.idx.toNat := if_pos h

theorem pending_of_not_ap (h : d.ds ≠ .ap) : d.pending = [] := if_neg h

theorem owed_of_awaiting (h : d.ds = .ah ∨ d.ds = .ap) : d.owed = [] := by rcases h with h | h <;> simp [Dec.owed, h]

theorem owed_of_ex (h : d.ds = .ex) : d.owed = packetEvents d.payloadPacket := by simp [Dec.owed, h]

theorem owed_of_dw (h : d.ds = .dw) : d.owed = [.send [0x51, d.operandEcho]] := by simp [Dec.owed, h]

end Registers

/-- A frame in progress is no packet yet. -/
theorem parse_pending {d : Dec} (hok : d.ok = true) : parse d.pending = [] := by
  by_cases hds : d.ds = .ap
  · obtain ⟨⟨htyp, hneed, _⟩, hlt⟩ := (decOk_iff_of_ap hds).1 hok
    have hshort : (d.pl.toList.take d.idx.toNat).length < (plen d.typ d.len).toNat := by
      rw [← hneed]
      exact (List.length_take_le _ _).trans_lt hlt
    rw [pending_of_ap hds, parse_header]
    simp only [headerType_header, headerLen_header, htyp, if_true, if_pos hshort]
  · rw [pending_of_not_ap hds, parse_nil]

/-- The byte collected comes behind the payload bytes got before. -/
theorem take_collect_pl {d : Dec} (hlt : d.idx < d.need) (b : Byte) :
    (d.collect b).pl.toList.take (d.idx.toNat + 1) = d.pl.toList.take d.idx.toNat ++ [b] := by
  have hidx : d.idx.toNat < d.pl.toList.length := by
    have hneed := d.need.isLt
    rw [BitVec.lt_def] at hlt
    rw [Vector.length_toList]
    exact hlt.trans_le (Nat.le_of_lt_succ hneed)
  rw [collect_pl, Vector.toList_setIfInBounds, List.take_add_one, List.take_set_of_le (le_refl _),
    List.getElem?_set_self hidx, Option.toList_some]

/-! ### One edge of DEC is one step of the parser -/

/-- What the byte got makes of the frame in progress: DEC goes on with it, presents its packet, or skips the byte. -/
structure ParserStep (d d' : Dec) (got : Option Byte) (events : List Event) : Prop where
  packets : ∀ rest, parse (d.pending ++ got.toList ++ rest) = d'.presented ++ parse (d'.pending ++ rest)
  events : events ++ d'.owed = d.owed ++ d'.presented.flatMap packetEvents

/-- While DEC holds the parser has nothing to do. -/
theorem parserStep_of_hold {d : Dec} (hds : d.ds ≠ .ex) : ParserStep d d none [] where
  packets rest := by rw [presented_of_not_ex hds, Option.toList_none, List.append_nil, List.nil_append]
  events := by rw [presented_of_not_ex hds, List.flatMap_nil, List.append_nil, List.nil_append]

theorem parserStep_of_skip {d : Dec} (hds : d.ds = .ah) {b : Byte} (hb : knownType (headerType b) = false) :
    ParserStep d d (some b) [] where
  packets rest := by
    have hpending : d.pending = [] := pending_of_not_ap (hds.trans_ne nofun)
    rw [presented_of_not_ex (hds.trans_ne nofun), hpending]
    exact parse_unassigned hb rest
  events := (parserStep_of_hold (hds.trans_ne nofun)).events

theorem parserStep_of_dispatch {d : Dec} (hds : d.ds = .ah) {b : Byte} (hb : knownType (headerType b) = true) :
    ParserStep d (d.dispatch (headerType b) (headerLen b)) (some b) [] := by
  have hpending : d.pending = [] := pending_of_not_ap (hds.trans_ne nofun)
  have howed : d.owed = [] := owed_of_awaiting (.inl hds)
  by_cases hzero : plen (headerType b) (headerLen b) = 0
  · have hex : (d.dispatch (headerType b) (headerLen b)).ds = .ex := if_pos hzero
    have hpacket : (d.dispatch (headerType b) (headerLen b)).payloadPacket = ⟨headerType b, headerLen b, []⟩ := by
      simp [Dec.payloadPacket, hzero]
    have hparse := parse_known (l := headerLen b) (payload := []) hb (by rw [hzero]; rfl)
    rw [header_of_fields] at hparse
    constructor
    · intro rest
      rw [presented_of_ex hex, hpacket, pending_of_not_ap (hex.trans_ne nofun), hpending]
      exact hparse rest
    · rw [owed_of_ex hex, presented_of_ex hex, howed, List.flatMap_singleton]
  · have hap : (d.dispatch (headerType b) (headerLen b)).ds = .ap := if_neg hzero
    constructor
    · intro rest
      rw [presented_of_not_ex (hap.trans_ne nofun), pending_of_ap hap, hpending, dispatch_typ, dispatch_len, header_of_fields]
      rfl
    · rw [owed_of_awaiting (.inr hap), presented_of_not_ex (hap.trans_ne nofun), howed]
      rfl

theorem parserStep_of_collect {d : Dec} (hds : d.ds = .ap) (hok : d.ok = true) (b : Byte) :
    ParserStep d (d.collect b) (some b) [] := by
  obtain ⟨⟨htyp, hneed, _⟩, hlt⟩ := (decOk_iff_of_ap hds).1 hok
  have htake := take_collect_pl hlt b
  have howed : d.owed = [] := owed_of_awaiting (.inr hds)
  by_cases hlast : d.idx + 1 = d.need
  · have hex : (d.collect b).ds = .ex := if_pos hlast
    have hpacket : (d.collect b).payloadPacket = ⟨d.typ, d.len, d.pl.toList.take d.idx.toNat ++ [b]⟩ := by
      rw [Dec.payloadPacket, collect_need, ← (idx_succ_eq_need_iff hlt).1 hlast, htake]
      rfl
    have hlen : (d.pl.toList.take d.idx.toNat ++ [b]).length = (plen d.typ d.len).toNat := by
      rw [← hneed, ← (idx_succ_eq_need_iff hlt).1 hlast, ← htake, List.length_take, Vector.length_toList]
      exact min_eq_left (((idx_succ_eq_need_iff hlt).1 hlast).le.trans (Nat.le_of_lt_succ d.need.isLt))
    constructor
    · intro rest
      rw [presented_of_ex hex, hpacket, pending_of_not_ap (hex.trans_ne nofun), pending_of_ap hds]
      exact parse_known htyp hlen rest
    · rw [owed_of_ex hex, presented_of_ex hex, howed, List.flatMap_singleton]
  · have hap : (d.collect b).ds = .ap := (if_neg hlast).trans hds
    constructor
    · intro rest
      rw [presented_of_not_ex (hap.trans_ne nofun), pending_of_ap hap, pending_of_ap hds, collect_idx, idx_succ_toNat hlt, htake]
      rfl
    · rw [owed_of_awaiting (.inr hap), presented_of_not_ex (hap.trans_ne nofun), howed]
      rfl

theorem take_three (v : Vector Byte 15) : v.toList.take 3 = [v[0], v[1], v[2]] := by
  refine List.ext_getElem (by simp) fun i h _ => ?_
  have hi : i < 3 := by simpa using h
  interval_cases i <;> simp

theorem take_four (v : Vector Byte 15) : v.toList.take 4 = [v[0], v[1], v[2], v[3]] := by
  refine List.ext_getElem (by simp) fun i h _ => ?_
  have hi : i < 4 := by simpa using h
  interval_cases i <;> simp

/-- What Execute emits and what it still owes are the events of the packet (42_command_dispatch R142 to R145). -/
theorem executed_packetEvents {d d' : Dec} {e : Event} (hds : d.ds = .ex) (hok : d.ok = true)
    (h : d.executed d.typ = some (d', e)) : e :: d'.owed = packetEvents d.payloadPacket := by
  obtain ⟨⟨htyp, hneed, _⟩, _⟩ := (decOk_iff_of_ex hds).1 hok
  rcases (knownType_iff d.typ).1 htyp with htyp | htyp | htyp | htyp <;> rw [htyp] at h hneed <;> cases h
  · simp [packetEvents, Dec.payloadPacket, htyp, Dec.owed, Dec.cleared]
  · have hpl : d.pl.toList.take d.need.toNat = [d.pl[0], d.pl[1], d.pl[2], d.pl[3]] := by
      rw [hneed, plen_add]
      exact take_four d.pl
    simp only [packetEvents, Dec.payloadPacket, htyp, hpl]
    rfl
  · have hpl : d.pl.toList.take d.need.toNat = [d.pl[0], d.pl[1], d.pl[2]] := by
      rw [hneed, plen_delay]
      exact take_three d.pl
    simp only [packetEvents, Dec.payloadPacket, htyp, hpl]
    rfl
  · have htext : d.pl.toList.take d.need.toNat = d.text := by rw [hneed, plen_log, Dec.text]
    simp only [packetEvents, Dec.payloadPacket, htyp, htext]
    rfl

theorem parserStep_of_execute {d d' : Dec} {e : Event} (hds : d.ds = .ex) (hok : d.ok = true)
    (h : d.executed d.typ = some (d', e)) : ParserStep d d' none [e] := by
  have hd' : d'.ds ≠ .ex ∧ d'.ds ≠ .ap := by
    rcases (executed_eq_some h).2 with rfl | ⟨_, rfl⟩ <;> exact ⟨DecState.noConfusion, DecState.noConfusion⟩
  constructor
  · intro rest
    rw [presented_of_not_ex hd'.1, pending_of_not_ap hd'.2, pending_of_not_ap (hds.trans_ne nofun)]
    rfl
  · rw [presented_of_not_ex hd'.1, owed_of_ex hds, List.flatMap_nil, List.append_nil]
    exact executed_packetEvents hds hok h

theorem parserStep_of_answer {d : Dec} (hds : d.ds = .dw) :
    ParserStep d .cleared none [.send [0x51, d.operandEcho]] := by
  constructor
  · intro rest
    rw [pending_of_not_ap (hds.trans_ne nofun)]
    rfl
  · rw [owed_of_dw hds]
    rfl

/-- Every edge without `rst` is one step of the parser. -/
theorem parserStep_of_decEdge {d d' : Dec} {inp : Inputs} {got : Option Byte} {events : List Event} (hok : d.ok = true)
    (hrst : inp.rst = false) (hgot : d.rdEn = false → got = none) (h : d.edge inp got = some (d', events)) :
    ParserStep d d' got events := by
  cases hds : d.ds with
  | ah =>
    cases got with
    | none =>
      rw [decEdge_of_ah_none hrst hds] at h
      cases h
      exact parserStep_of_hold (hds.trans_ne nofun)
    | some b =>
      rw [decEdge_of_ah_some hrst hds] at h
      cases hb : knownType (headerType b) with
      | true => rw [hb] at h; cases h; exact parserStep_of_dispatch hds hb
      | false => rw [hb] at h; cases h; exact parserStep_of_skip hds hb
  | ap =>
    cases got with
    | none =>
      rw [decEdge_of_ap_none hrst hds] at h
      cases h
      exact parserStep_of_hold (hds.trans_ne nofun)
    | some b =>
      rw [decEdge_of_ap_some hrst hds, if_pos ((decOk_iff_of_ap hds).1 hok).2] at h
      cases h
      exact parserStep_of_collect hds hok b
  | ex =>
    obtain rfl := hgot (rdEn_of_ex hds)
    obtain ⟨x, hx, h⟩ := Option.map_eq_some_iff.1 ((decEdge_of_ex hrst hds).symm.trans h)
    cases h
    exact parserStep_of_execute hds hok hx
  | dw =>
    obtain rfl := hgot (rdEn_of_dw hds)
    cases hdone : inp.sleepDone with
    | false =>
      rw [decEdge_of_dw_idle hrst hds hdone] at h
      cases h
      exact parserStep_of_hold (hds.trans_ne nofun)
    | true =>
      rw [decEdge_of_dw_done hrst hds hdone] at h
      cases h
      exact parserStep_of_answer hds

/-! ### Runs -/

/-- A run from any decoder state of the invariant: the packets are the parser's of the frame in progress and the bytes got, and
the events emitted and still owed are those owed at the start and the packets'. -/
theorem observe_parser {s : State} (hok : s.ok = true) {n : Nat} (hinputs : ∀ i ∈ s.env.take n, i.rst = false) :
    ∃ t got packets events, observe n s = some (t, got, packets) ∧ packets = parse (s.dec.pending ++ got) ∧
      t.trace = s.trace ++ events ∧ events ++ t.dec.owed = s.dec.owed ++ packets.flatMap packetEvents := by
  induction n generalizing s with
  | zero =>
    obtain ⟨_, hdec, _, _⟩ := stateOk_iff.1 hok
    refine ⟨s, [], [], [], observe_zero s, ?_, (List.append_nil _).symm, ?_⟩
    · rw [List.append_nil, parse_pending hdec]
    · rw [List.flatMap_nil, List.append_nil, List.nil_append]
  | succ n ih =>
    obtain ⟨_, hdec, _, _⟩ := stateOk_iff.1 hok
    obtain ⟨hrst, hlater⟩ := input_of_take_succ (p := fun i => i.rst = false) rfl hinputs
    obtain ⟨d, events, hedge, _, hok'⟩ := exists_stepAt hok
    obtain ⟨t, got, packets, events', hrun, hpackets, htrace, hevents⟩ := ih hok' hlater
    have hparser := parserStep_of_decEdge hdec hrst (fun hrd => by rw [hrd, gotAt_of_no_rdEn]) hedge
    refine ⟨t, _, _, events ++ events', observe_succ (step_of_decEdge hedge) hrun, ?_, ?_, ?_⟩
    · rw [← List.append_assoc]
      exact (congrArg (d.presented ++ ·) hpackets).trans (hparser.packets got).symm
    · rw [htrace, ← List.append_assoc]
      rfl
    · calc events ++ events' ++ t.dec.owed
        _ = events ++ (d.owed ++ packets.flatMap packetEvents) := by rw [List.append_assoc, hevents]; rfl
        _ = s.dec.owed ++ (d.presented.flatMap packetEvents ++ packets.flatMap packetEvents) := by
          rw [← List.append_assoc, hparser.events, List.append_assoc]
        _ = s.dec.owed ++ (d.presented ++ packets).flatMap packetEvents := by rw [List.flatMap_append]

/-- The same from AH, where DEC has begun no frame and owes no event. -/
theorem observe_parser_of_ah {s : State} (hok : s.ok = true) (hds : s.dec.ds = .ah) {n : Nat}
    (hinputs : ∀ i ∈ s.env.take n, i.rst = false) :
    ∃ t got events, observe n s = some (t, got, parse got) ∧ t.trace = s.trace ++ events ∧
      events ++ t.dec.owed = (parse got).flatMap packetEvents := by
  obtain ⟨t, got, packets, events, hrun, rfl, htrace, hevents⟩ := observe_parser hok hinputs
  rw [pending_of_not_ap (hds.trans_ne nofun), List.nil_append] at hrun hevents
  rw [owed_of_awaiting (.inl hds), List.nil_append] at hevents
  exact ⟨t, got, events, hrun, htrace, hevents⟩

/-- Settles O45. -/
theorem packetsAndEventsFollowTheParser : Obligations.PacketsAndEventsFollowTheParser := by
  intro n s hok hds hinputs
  obtain ⟨t, got, events, hrun, htrace, hevents⟩ := observe_parser_of_ah hok hds hinputs
  refine ⟨t, got, parse got, events, hrun, rfl, htrace, ⟨_, hevents⟩, fun hah => ?_⟩
  rw [← hevents, owed_of_awaiting (.inl hah), List.append_nil]

/-! ### What a run shows depends on the unread bytes alone -/

section Contents

variable {c : Nat} {q r : Rb c}

theorem get_contents_congr (hq : q.ok = true) (hr : r.ok = true) (h : q.contents = r.contents) :
    q.get.1 = r.get.1 ∧ q.get.2.contents = r.get.2.contents := by
  rw [get_fst_eq_head? hq, get_fst_eq_head? hr, contents_get hq, contents_get hr, h]
  exact ⟨rfl, rfl⟩

theorem put_contents_congr (hq : q.ok = true) (hr : r.ok = true) (h : q.contents = r.contents) (b : Byte) :
    (q.put b).contents = (r.put b).contents := by
  rw [contents_put hq, contents_put hr, h, size_eq_of_contents_eq h]

theorem gotAt_congr (hq : q.ok = true) (hr : r.ok = true) (h : q.contents = r.contents) (inp : Inputs) (rdEn : Bool) :
    gotAt inp rdEn q = gotAt inp rdEn r := by
  cases hrst : inp.rst with
  | true => rw [gotAt_of_rst _ _ hrst, gotAt_of_rst _ _ hrst]
  | false =>
    cases hclr : inp.clr with
    | true => rw [gotAt_of_clr _ _ hclr, gotAt_of_clr _ _ hclr]
    | false => rw [gotAt_eq _ _ hrst hclr, gotAt_eq _ _ hrst hclr, (get_contents_congr hq hr h).1]

theorem clockedRb_contents_congr (hq : q.ok = true) (hr : r.ok = true) (h : q.contents = r.contents) (inp : Inputs)
    (rdEn : Bool) : (clockedRb inp rdEn q).contents = (clockedRb inp rdEn r).contents := by
  cases hrst : inp.rst with
  | true => rw [clockedRb_of_rst _ _ hrst, clockedRb_of_rst _ _ hrst, contents_init, contents_init]
  | false =>
    cases hclr : inp.clr with
    | true => rw [clockedRb_of_clr _ _ hrst hclr, clockedRb_of_clr _ _ hrst hclr, contents_clear, contents_clear]
    | false =>
      have hget := (get_contents_congr hq hr h).2
      rw [clockedRb_eq _ _ hrst hclr, clockedRb_eq _ _ hrst hclr]
      cases rdEn <;> cases inp.wrEn
      · exact h
      · exact put_contents_congr hq hr h _
      · exact hget
      · exact put_contents_congr (get_ok hq) (get_ok hr) hget _

theorem ports_congr (hq : q.ok = true) (hr : r.ok = true) (h : q.contents = r.contents) (p : Strobes) :
    q.ports p = r.ports p := by
  have hfull : q.full = r.full := isFull_eq_of_contents_eq h
  rw [Rb.ports, Rb.ports, isEmpty_eq_of_contents_eq h, hfull, size_eq_of_contents_eq h, peek_eq_head? hq, peek_eq_head? hr, h]

end Contents

/-- Two states that a run cannot tell apart. -/
structure ShowAlike (s1 s2 : State) : Prop where
  ok1 : s1.ok = true
  ok2 : s2.ok = true
  contents : s1.rb.contents = s2.rb.contents
  dec : s1.dec = s2.dec
  env : s1.env = s2.env

/-- One edge of two such states gets the same byte, emits the same events, shows the same ports and leaves two such states. -/
theorem showAlike_step {s1 s2 : State} (h : ShowAlike s1 s2) :
    ∃ d events, step s1 = .next (s1.afterEdge d events) ∧ step s2 = .next (s2.afterEdge d events) ∧
      ShowAlike (s1.afterEdge d events) (s2.afterEdge d events) ∧
      (s1.afterEdge d events).got = (s2.afterEdge d events).got ∧
      (s1.afterEdge d events).out = (s2.afterEdge d events).out := by
  obtain ⟨ok1, ok2, hcontents, hdec, henv⟩ := h
  obtain ⟨hrb1, _, _, _⟩ := stateOk_iff.1 ok1
  obtain ⟨hrb2, _, _, _⟩ := stateOk_iff.1 ok2
  have hinput : s1.input = s2.input := congrArg (List.headD · Inputs.idle) henv
  have hgot : gotAt s1.input s1.dec.rdEn s1.rb = gotAt s2.input s2.dec.rdEn s2.rb := by
    rw [hinput, hdec]
    exact gotAt_congr hrb1 hrb2 hcontents _ _
  obtain ⟨d, events, hedge, _, hok1⟩ := exists_stepAt ok1
  obtain ⟨d2, events2, hedge2, _, hok2⟩ := exists_stepAt ok2
  obtain ⟨rfl, rfl⟩ : d = d2 ∧ events = events2 := by
    rw [hgot, hinput, hdec, hedge2] at hedge
    cases hedge
    exact ⟨rfl, rfl⟩
  refine ⟨d, events, step_of_decEdge hedge, step_of_decEdge hedge2, ⟨hok1, hok2, ?_, rfl, congrArg List.tail henv⟩, hgot,
    ports_congr hrb1 hrb2 hcontents _⟩
  change (clockedRb s1.input s1.dec.rdEn s1.rb).contents = (clockedRb s2.input s2.dec.rdEn s2.rb).contents
  rw [hinput, hdec]
  exact clockedRb_contents_congr hrb1 hrb2 hcontents _ _

/-- The ports agree after an edge, or when they agreed before. -/
theorem observe_showAlike {s1 s2 : State} (h : ShowAlike s1 s2) (n : Nat) :
    ∃ t1 t2 got packets events, observe n s1 = some (t1, got, packets) ∧ observe n s2 = some (t2, got, packets) ∧
      t1.trace = s1.trace ++ events ∧ t2.trace = s2.trace ++ events ∧ ShowAlike t1 t2 ∧
      (0 < n ∨ s1.out = s2.out → t1.out = t2.out) := by
  induction n generalizing s1 s2 with
  | zero =>
    exact ⟨s1, s2, [], [], [], rfl, rfl, (List.append_nil _).symm, (List.append_nil _).symm, h,
      fun hor => hor.resolve_left (lt_irrefl 0)⟩
  | succ n ih =>
    obtain ⟨d, events, hstep1, hstep2, h', hgot, hout⟩ := showAlike_step h
    obtain ⟨t1, t2, got, packets, events', hrun1, hrun2, htrace1, htrace2, ht, hout'⟩ := ih h'
    refine ⟨t1, t2, _, _, events ++ events', observe_succ hstep1 hrun1, ?_, ?_, ?_, ht, fun _ => hout' (.inr hout)⟩
    · rw [hgot]
      exact observe_succ hstep2 hrun2
    · rw [htrace1, ← List.append_assoc]
      rfl
    · rw [htrace2, ← List.append_assoc]
      rfl

/-- Settles O46. -/
theorem observationDependsOnContentsOnly : Obligations.ObservationDependsOnContentsOnly := by
  intro n s1 s2 hok1 hok2 hcontents hdec henv
  obtain ⟨t1, t2, got, packets, events, hrun1, hrun2, htrace1, htrace2, ht, hout⟩ :=
    observe_showAlike ⟨hok1, hok2, hcontents, hdec, henv⟩ n
  exact ⟨t1, t2, got, packets, events, hrun1, hrun2, htrace1, htrace2, ht.contents, ht.dec, fun hn => hout (.inl hn)⟩

end Sys2Proof.Machine
end

section
/-! PROOF. The schedule of 43_top_cycle R169: one edge for the header, one for each payload byte, one for Execute. Which packets
and events the run shows is then the parser's answer for the bytes got. -/

namespace Sys2Proof.Machine

/-! ### Undisturbed edges -/

/-- `n` edges lead from `s` to `t`, and DEC gets `got` at them. -/
def Reaches (n : Nat) (s t : State) (got : List Byte) : Prop := ∃ packets, observe n s = some (t, got, packets)

theorem reaches_zero (s : State) : Reaches 0 s s [] := ⟨[], rfl⟩

theorem reaches_succ {n : Nat} {s t u : State} {got : List Byte} (hstep : step s = .next t) (h : Reaches n t u got) :
    Reaches (n + 1) s u (t.got.toList ++ got) := by
  obtain ⟨packets, hrun⟩ := h
  exact ⟨_, observe_succ hstep hrun⟩

theorem quiet_iff (i : Inputs) : i.quiet = true ↔ i.rst = false ∧ i.clr = false ∧ i.wrEn = false := by
  simp [Inputs.quiet, and_assoc]

/-- An undisturbed edge at which DEC asks for a byte gets the oldest one. -/
theorem edge_gets {s : State} {b : Byte} {rest : List Byte} (hok : s.ok = true) (hquiet : s.input.quiet = true)
    (hrd : s.dec.rdEn = true) (hcontents : s.rb.contents = b :: rest) :
    gotAt s.input s.dec.rdEn s.rb = some b ∧ (clockedRb s.input s.dec.rdEn s.rb).contents = rest := by
  obtain ⟨hrst, hclr, hwr⟩ := (quiet_iff _).1 hquiet
  obtain ⟨hrb, _, _, _⟩ := stateOk_iff.1 hok
  rw [gotAt_eq _ _ hrst hclr, clockedRb_eq _ _ hrst hclr, hrd, hwr, if_pos rfl, if_neg Bool.false_ne_true, if_pos rfl,
    get_fst_eq_head? hrb, contents_get hrb, hcontents]
  exact ⟨rfl, rfl⟩

/-- An undisturbed edge at which DEC asks for none leaves the ring buffer. -/
theorem edge_leaves {s : State} (hquiet : s.input.quiet = true) (hrd : s.dec.rdEn = false) :
    gotAt s.input s.dec.rdEn s.rb = none ∧ clockedRb s.input s.dec.rdEn s.rb = s.rb := by
  obtain ⟨hrst, hclr, hwr⟩ := (quiet_iff _).1 hquiet
  rw [hrd, gotAt_of_no_rdEn, clockedRb_of_no_rdEn _ hrst hclr, Inputs.putByte, hwr]
  exact ⟨rfl, rfl⟩

/-! ### The parts of the schedule -/

/-- The decoder state that Execute of type code `t` leads to (41_frame_decoder R127, R129). -/
def afterExecute (t : Nibble) : DecState := if t = 4 then .dw else .ah

theorem executed_ds {d d' : Dec} {t : Nibble} {e : Event} (h : d.executed t = some (d', e)) : d'.ds = afterExecute t := by
  unfold Dec.executed at h
  split_ifs at h with h1 h2 h4 h6 <;> cases h
  · rw [h1]; rfl
  · rw [h2]; rfl
  · rw [h4]; rfl
  · rw [h6]; rfl

/-- Execute takes one edge. -/
theorem schedule_execute {s : State} (hok : s.ok = true) (hds : s.dec.ds = .ex) (hquiet : s.input.quiet = true) :
    ∃ t, Reaches 1 s t [] ∧ t.dec.ds = afterExecute s.dec.typ ∧ t.rb.contents = s.rb.contents := by
  obtain ⟨hrst, _, _⟩ := (quiet_iff _).1 hquiet
  obtain ⟨_, hdec, _, _⟩ := stateOk_iff.1 hok
  obtain ⟨hgot, hrb⟩ := edge_leaves hquiet (rdEn_of_ex hds)
  obtain ⟨d, e, hexec⟩ := exists_executed ((decOk_iff_of_ex hds).1 hdec).1.1 s.dec
  have hedge := decEdge_of_ex (got := gotAt s.input s.dec.rdEn s.rb) hrst hds
  rw [hexec, Option.map_some] at hedge
  have hreach := reaches_succ (step_of_decEdge hedge) (reaches_zero _)
  rw [show (s.afterEdge d [e]).got = none from hgot] at hreach
  exact ⟨_, hreach, executed_ds hexec, congrArg Rb.contents hrb⟩

/-- A command is in progress of which `k` payload bytes are missing. -/
structure Dec.Awaits (d : Dec) (k : Nat) : Prop where
  ds : d.ds = if k = 0 then .ex else .ap
  need : d.need.toNat = d.idx.toNat + k

theorem dispatch_awaits (d : Dec) (t l : Nibble) : (d.dispatch t l).Awaits (plen t l).toNat where
  ds := by simp only [dispatch_ds, ← BitVec.toNat_inj]; rfl
  need := (Nat.zero_add _).symm

theorem collect_awaits {d : Dec} {k : Nat} (h : d.Awaits (k + 1)) (b : Byte) : (d.collect b).Awaits k := by
  have hlt : d.idx < d.need := by rw [BitVec.lt_def, h.need]; omega
  have hidx := idx_succ_toNat hlt
  constructor
  · have hlast : d.idx + 1 = d.need ↔ k = 0 := by rw [idx_succ_eq_need_iff hlt, h.need]; omega
    rw [collect_ds, h.ds, if_neg k.succ_ne_zero]
    simp only [hlast]
  · rw [collect_need, collect_idx, h.need, hidx]
    omega

/-- Each missing payload byte takes one edge, and Execute one more. -/
theorem schedule_payload {s : State} {payload rest : List Byte} (hok : s.ok = true) (hwait : s.dec.Awaits payload.length)
    (hcontents : s.rb.contents = payload ++ rest) (hinputs : ∀ i ∈ s.env.take (payload.length + 1), i.quiet = true) :
    ∃ t, Reaches (payload.length + 1) s t payload ∧ t.dec.ds = afterExecute s.dec.typ ∧ t.rb.contents = rest := by
  obtain ⟨hquiet, hlater⟩ := input_of_take_succ (p := fun i => i.quiet = true) rfl hinputs
  induction payload generalizing s with
  | nil =>
    obtain ⟨t, hreach, hds, hrest⟩ := schedule_execute hok hwait.ds hquiet
    exact ⟨t, hreach, hds, hrest.trans hcontents⟩
  | cons b payload ih =>
    have hap : s.dec.ds = .ap := hwait.ds
    obtain ⟨hrst, _, _⟩ := (quiet_iff _).1 hquiet
    obtain ⟨hgot, hqueue⟩ := edge_gets hok hquiet ((rdEn_iff _).2 (.inr hap)) hcontents
    obtain ⟨d, events, hedge, _, hok'⟩ := exists_stepAt hok
    have hcollect := hedge
    obtain ⟨_, hdec, _, _⟩ := stateOk_iff.1 hok
    rw [hgot, decEdge_of_ap_some hrst hap, if_pos ((decOk_iff_of_ap hap).1 hdec).2] at hcollect
    cases hcollect
    obtain ⟨hquiet', hlater'⟩ := input_of_take_succ (s := s.afterEdge (s.dec.collect b) []) (p := fun i => i.quiet = true)
      rfl hlater
    obtain ⟨t, hreach, hds, hrest⟩ := ih hok' (collect_awaits hwait b) hqueue hlater hquiet' hlater'
    have hreach' := reaches_succ (step_of_decEdge hedge) hreach
    rw [show (s.afterEdge (s.dec.collect b) []).got = some b from hgot] at hreach'
    exact ⟨t, hreach', hds, hrest⟩

/-- A header takes one edge. -/
theorem schedule_header {s : State} {h : Byte} {rest : List Byte} (hok : s.ok = true) (hds : s.dec.ds = .ah)
    (hquiet : s.input.quiet = true) (hcontents : s.rb.contents = h :: rest) :
    ∃ u, step s = .next u ∧ u.ok = true ∧ u.got = some h ∧ u.rb.contents = rest ∧ u.env = s.env.tail ∧
      u.dec = if knownType (headerType h) then s.dec.dispatch (headerType h) (headerLen h) else s.dec := by
  obtain ⟨hrst, _, _⟩ := (quiet_iff _).1 hquiet
  obtain ⟨hgot, hqueue⟩ := edge_gets hok hquiet ((rdEn_iff _).2 (.inl hds)) hcontents
  obtain ⟨d, events, hedge, _, hok'⟩ := exists_stepAt hok
  have hdispatch := hedge
  rw [hgot, decEdge_of_ah_some hrst hds] at hdispatch
  cases hdispatch
  exact ⟨_, step_of_decEdge hedge, hok', hgot, hqueue, rfl, rfl⟩

/-- A command takes an edge for its header, one for each payload byte and one for Execute. -/
theorem schedule_command {s : State} {t l : Nibble} {payload rest : List Byte} (hok : s.ok = true) (hds : s.dec.ds = .ah)
    (ht : knownType t = true) (hlen : payload.length = (plen t l).toNat)
    (hcontents : s.rb.contents = header t l :: payload ++ rest)
    (hinputs : ∀ i ∈ s.env.take (payload.length + 2), i.quiet = true) :
    ∃ u, Reaches (payload.length + 2) s u (header t l :: payload) ∧ u.dec.ds = afterExecute t ∧ u.rb.contents = rest := by
  obtain ⟨hquiet, hlater⟩ := input_of_take_succ (p := fun i => i.quiet = true) rfl hinputs
  obtain ⟨v, hstep, hvok, hgot, hqueue, henv, hdec⟩ := schedule_header hok hds hquiet hcontents
  rw [headerType_header, headerLen_header, if_pos ht] at hdec
  have hwait : v.dec.Awaits payload.length := by
    rw [hdec, hlen]
    exact dispatch_awaits s.dec t l
  obtain ⟨u, hreach, hlast, hrest⟩ := schedule_payload hvok hwait hqueue (henv ▸ hlater)
  have hreach' := reaches_succ hstep hreach
  rw [hgot] at hreach'
  rw [hdec, dispatch_typ] at hlast
  exact ⟨u, hreach', hlast, hrest⟩

/-- An unassigned header takes one edge and nothing more. -/
theorem schedule_unassigned {s : State} {t l : Nibble} {rest : List Byte} (hok : s.ok = true) (hds : s.dec.ds = .ah)
    (ht : knownType t = false) (hcontents : s.rb.contents = header t l :: rest)
    (hinputs : ∀ i ∈ s.env.take 1, i.quiet = true) :
    ∃ u, Reaches 1 s u [header t l] ∧ u.dec.ds = .ah ∧ u.rb.contents = rest := by
  obtain ⟨hquiet, _⟩ := input_of_take_succ (p := fun i => i.quiet = true) rfl hinputs
  obtain ⟨u, hstep, _, hgot, hqueue, _, hdec⟩ := schedule_header hok hds hquiet hcontents
  have hreach := reaches_succ hstep (reaches_zero u)
  rw [headerType_header, ht, if_neg Bool.false_ne_true] at hdec
  rw [hgot] at hreach
  exact ⟨u, hreach, hdec ▸ hds, hqueue⟩

/-! ### What the frame shows -/

/-- How many edges a frame takes until DEC is in the state named (43_top_cycle R169). -/
def frameEdges : Frame → Nat
  | .echo _ => 2
  | .add _ _ _ => 6
  | .delay _ _ _ => 5
  | .log text => text.length + 2
  | .unknown _ _ => 1

/-- The state DEC is in then. -/
def frameLast : Frame → DecState
  | .delay _ _ _ => .dw
  | .echo _ | .add _ _ _ | .log _ | .unknown _ _ => .ah

theorem schedule_frame {f : Frame} {s : State} {rest : List Byte} (hwf : f.wf = true) (hok : s.ok = true)
    (hds : s.dec.ds = .ah) (hcontents : s.rb.contents = encodeFrame f ++ rest)
    (hinputs : ∀ i ∈ s.env.take (frameEdges f), i.quiet = true) :
    ∃ t, Reaches (frameEdges f) s t (encodeFrame f) ∧ t.dec.ds = frameLast f ∧ t.rb.contents = rest := by
  cases f with
  | echo l => exact schedule_command (payload := []) hok hds rfl rfl hcontents hinputs
  | add l a b => exact schedule_command (payload := [_, _, _, _]) hok hds rfl rfl hcontents hinputs
  | delay l d e => exact schedule_command (payload := [_, _, _]) hok hds rfl rfl hcontents hinputs
  | log text => exact schedule_command hok hds rfl (logLen_toNat ((log_wf_iff text).1 hwf)).symm hcontents hinputs
  | unknown t l => exact schedule_unassigned hok hds ((unknown_wf_iff t l).1 hwf) hcontents hinputs

/-- A whole frame is read as its packets. -/
theorem parse_encodeFrame {f : Frame} (hwf : f.wf = true) : parse (encodeFrame f) = framePackets f := by
  simpa using parserReadsEncodedFrames f [] hwf

/-- The run over a frame shows its packets; the events emitted and those still owed are the packets'. -/
theorem observe_frame {f : Frame} {s : State} {rest : List Byte} (hwf : f.wf = true) (hok : s.ok = true)
    (hds : s.dec.ds = .ah) (hcontents : s.rb.contents = encodeFrame f ++ rest)
    (hinputs : ∀ i ∈ s.env.take (frameEdges f), i.quiet = true) :
    ∃ t events, observe (frameEdges f) s = some (t, encodeFrame f, framePackets f) ∧ t.trace = s.trace ++ events ∧
      t.rb.contents = rest ∧ t.dec.ds = frameLast f ∧
      events ++ t.dec.owed = (framePackets f).flatMap packetEvents := by
  obtain ⟨t, ⟨_, hrun⟩, hlast, hrest⟩ := schedule_frame hwf hok hds hcontents hinputs
  obtain ⟨t', got, events, hrun', htrace, hevents⟩ :=
    observe_parser_of_ah hok hds fun i hi => ((quiet_iff i).1 (hinputs i hi)).1
  rw [hrun] at hrun'
  cases hrun'
  rw [parse_encodeFrame hwf] at hrun hevents
  exact ⟨t, events, hrun, htrace, hrest, hlast, hevents⟩

/-- A frame that ends in AH has all its events emitted. -/
theorem observe_frame_of_ah {f : Frame} {s : State} {rest : List Byte} (hwf : f.wf = true) (hok : s.ok = true)
    (hds : s.dec.ds = .ah) (hcontents : s.rb.contents = encodeFrame f ++ rest)
    (hinputs : ∀ i ∈ s.env.take (frameEdges f), i.quiet = true) (hah : frameLast f = .ah) :
    ∃ t, observe (frameEdges f) s = some (t, encodeFrame f, framePackets f) ∧
      t.trace = s.trace ++ (framePackets f).flatMap packetEvents ∧ t.rb.contents = rest ∧ t.dec.ds = .ah := by
  obtain ⟨t, events, hrun, htrace, hrest, hlast, hevents⟩ := observe_frame hwf hok hds hcontents hinputs
  rw [owed_of_awaiting (.inl (hlast.trans hah)), List.append_nil] at hevents
  exact ⟨t, hrun, hevents ▸ htrace, hrest, hlast.trans hah⟩

/-- Settles O47. -/
theorem framesAreAnsweredOnSchedule : Obligations.FramesAreAnsweredOnSchedule := by
  intro f s rest edges events last hwf hok hds hcontents hinputs hcase
  cases f with
  | echo l =>
    obtain ⟨rfl, rfl, rfl⟩ := hcase
    exact observe_frame_of_ah hwf hok hds hcontents hinputs rfl
  | add l a b =>
    obtain ⟨rfl, rfl, rfl⟩ := hcase
    have hpackets : (framePackets (.add l a b)).flatMap packetEvents =
        [.send [0x32, highByte (a + b), lowByte (a + b)]] := by
      simp [framePackets, packetEvents, be16_high_low]
    exact hpackets ▸ observe_frame_of_ah hwf hok hds hcontents hinputs rfl
  | delay l d e =>
    obtain ⟨rfl, rfl, rfl⟩ := hcase
    obtain ⟨t, events, hrun, htrace, hrest, hlast, hevents⟩ := observe_frame hwf hok hds hcontents hinputs
    have hpackets : (framePackets (.delay l d e)).flatMap packetEvents = [.sleepReq d] ++ [.send [0x51, e]] := by
      simp [framePackets, packetEvents, be16_high_low]
    rw [owed_of_dw hlast, hpackets] at hevents
    exact ⟨t, hrun, List.append_inj_left' hevents rfl ▸ htrace, hrest, hlast⟩
  | log text =>
    obtain ⟨rfl, rfl, rfl⟩ := hcase
    exact observe_frame_of_ah hwf hok hds hcontents hinputs rfl
  | unknown t l =>
    obtain ⟨rfl, rfl, rfl⟩ := hcase
    exact observe_frame_of_ah hwf hok hds hcontents hinputs rfl

end Sys2Proof.Machine
end
